-- ==== Sys2Proof/Word.lean ====
section
/-! DEFINITION. The word types of the block: every stream, buffer and memory element is a byte (R9, R90); the
hashing collaborator computes in 32-bit words. Addresses, counts and indices are natural numbers (R9). -/

namespace Sys2Proof

/-- R9: an 8-bit unsigned value. -/
abbrev Byte := BitVec 8

/-- A word of the hashing collaborator (R212). -/
abbrev HashWord := BitVec 32

end Sys2Proof
end

