-- ==== Sys2Proof/Config.lean ====
section
/-! DEFINITION. What an implementation fixes (R6, R7, R8): the fixed constants, the OPEN parameters as the plain
record `Params` that every state carries, and the free values of the model as constants without a body. -/

namespace Sys2Proof

/-- R6 `BLOCK`: bytes in an erase block. -/
def blockSize : Nat := 64

/-- R6 `SIZE_LEN`: bytes in the image-size field. -/
def sizeLen : Nat := 3

/-- R6 `SIG_LEN`: bytes in the signature field (C11). -/
def sigLen : Nat := 64

/-- R6 `VEC_LEN`: bytes in the reset vector. -/
def vecLen : Nat := 4

/-- R6 `BACKUP_ADDR`: address of the reset-vector copy (D9, C4). -/
def backupAddr : Nat := 64

/-- R6 `ERASED_BYTE` (D5, log 11). -/
def erasedByte : Byte := 0xFF#8

/-- R6 `BLANK`: fill of the canonicalization, whatever `erasedByte` is (R213). -/
def blankByte : Byte := 0xFF#8

/-- R6 `APP_ENTRY`: target of TransferControl (D25, log 20). -/
def appEntry : Nat := 4

/-- R6 `FRAMER_WRAP`: when the frame index wraps (D14). -/
inductive FramerWrap where
  | afterStore
  | beforeStore
deriving DecidableEq, Repr

/-- R6 `PROGRAM_MODEL`: what a program cycle does to a byte (D6, R125). -/
inductive ProgramModel where
  | overwrite
  | and
deriving DecidableEq, Repr

/-- R6 `ADDR_SUM_MODE`: arithmetic of the `addr + size` check (D18, R185). -/
inductive AddrSumMode where
  | exact
  | mod24
deriving DecidableEq, Repr

/-- R6: the OPEN parameters, and the launch premise `VEC0` of R294. "A named parameter the model takes as an
argument": each state carries its own record, no step changes it (log 1). -/
structure Params where
  /-- `FLASH_SIZE` -/
  flashSize       : Nat
  /-- `BTLD_OFFSET` -/
  btldOffset      : Nat
  /-- `FRAME_BUF_SIZE` -/
  frameBufSize    : Nat
  framerWrap      : FramerWrap
  /-- `HANDSHAKE_BUDGET` -/
  handshakeBudget : Nat
  programModel    : ProgramModel
  addrSumMode     : AddrSumMode
  rspAck          : Byte
  rspInvalid      : Byte
  rspDenied       : Byte
  rspSigValid     : Byte
  rspSigInvalid   : Byte
  /-- `VEC0`: the bootloader's reset vector, `mem[0..4)` at launch -/
  vec0            : List Byte
deriving DecidableEq, Repr

/-- R6: `CODE_SIZE_OFFSET = BTLD_OFFSET − 3` (D3). -/
def Params.codeSizeOffset (c : Params) : Nat := c.btldOffset - sizeLen

/-- R6: `SIGNAT_OFFSET = CODE_SIZE_OFFSET − 64`. -/
def Params.signatOffset (c : Params) : Nat := c.codeSizeOffset - sigLen

/-- R152: the most bytes a frame that is still dispatched can store. -/
def Params.maxFrame (c : Params) : Nat :=
  match c.framerWrap with
  | .afterStore  => c.frameBufSize - 1
  | .beforeStore => c.frameBufSize

/-- R7: the constraints under which the block is defined (D4). -/
abbrev Params.Wf (c : Params) : Prop :=
  c.flashSize % 64 = 0 ∧ 0 < c.flashSize ∧ c.flashSize ≤ 2 ^ 24 ∧
  c.btldOffset % 64 = 0 ∧ 128 ≤ c.btldOffset ∧ c.btldOffset ≤ c.flashSize ∧
  2 ≤ c.frameBufSize ∧ c.vec0.length = 4

/-- R8 (P1): under it no FLASH_DATA frame reaches `[SIGNAT_OFFSET, BTLD_OFFSET)`. -/
abbrev Params.P1 (c : Params) : Prop := 259 ≤ c.signatOffset

/-- R8 (P2): under it an `N` frame can be received. -/
abbrev Params.P2 (c : Params) : Prop := 66 ≤ c.maxFrame

/-- R8 (P3): under it no payload read of R181 falls outside the buffer. -/
abbrev Params.P3 (c : Params) : Prop := 263 ≤ c.frameBufSize

namespace Config

/-- The free values of the spec (`draw()`, R13): the `n`-th draw of a run. No body: nothing is known of it (log 2). -/
opaque draw : Nat → Byte

/-- A free bit: whether a byte in flight at a power failure reaches the host (U16, log 2). -/
opaque drawBit : Nat → Bool

/-- R6 `CURVE`, OPEN (D28, log 3). -/
opaque curve : List Byte

/-- R6 `PUBKEY`, OPEN (D28, log 3). -/
opaque pubKey : List Byte

/-- The signature collaborator of a curve: key, digest and signature to a verdict, pure and total (R216, log 3). -/
opaque verifyOn : List Byte → List Byte → List Byte → List Byte → Bool

/-- R216 `VERIFY(pk, digest, sig)` for the fixed curve. -/
def verify (pk digest sig : List Byte) : Bool := verifyOn curve pk digest sig

/-- R6 `RSP_ACK` of the launch configuration, OPEN (D21, log 4). -/
opaque rspAck : Byte
/-- R6 `RSP_INVALID` of the launch configuration, OPEN (D21, log 4). -/
opaque rspInvalid : Byte
/-- R6 `RSP_DENIED` of the launch configuration, OPEN (D21, log 4). -/
opaque rspDenied : Byte
/-- R6 `RSP_SIG_VALID` of the launch configuration, OPEN (D21, log 4). -/
opaque rspSigValid : Byte
/-- R6 `RSP_SIG_INVALID` of the launch configuration, OPEN (D21, log 4). -/
opaque rspSigInvalid : Byte

/-- The configuration the reset state carries: EX1 of 95_test_vectors.md, the spec's own example, with the response
bytes left open and `VEC0` what the empty memory reads as (log 4). -/
def launch : Params where
  flashSize       := 0x8000
  btldOffset      := 0x7C00
  frameBufSize    := 300
  framerWrap      := .afterStore
  handshakeBudget := 1000
  programModel    := .overwrite
  addrSumMode     := .exact
  rspAck          := rspAck
  rspInvalid      := rspInvalid
  rspDenied       := rspDenied
  rspSigValid     := rspSigValid
  rspSigInvalid   := rspSigInvalid
  vec0            := [0xFF#8, 0xFF#8, 0xFF#8, 0xFF#8]

end Config

end Sys2Proof
end

