-- ==== Sys2Proof/Syntax.lean ====
section
/-! DEFINITION. The block's instructions: one constructor per row of spec/opcode_table.json. A command row carries the
payload `P[0 .. L)` of its frame (R93), a content byte row the byte, a response row which of the five it is (R99). -/

namespace Sys2Proof

/-- R26: the framer's mode, the one mode bit that decides how a wire byte is decoded (R101). -/
inductive FramerMode where
  | normal
  | escaped
deriving DecidableEq, Repr

/-- R99: the five single-byte responses. -/
inductive Response where
  | ack
  | invalid
  | denied
  | sigValid
  | sigInvalid
deriving DecidableEq, Repr

inductive Instr where
  /-- `M`: PROGRAM_SIZE, R182 -/
  | m (payload : List Byte)
  /-- `N`: PROGRAM_SIGNATURE, R183 -/
  | n (payload : List Byte)
  /-- `D`: FLASH_DATA, R184 to R187 -/
  | d (payload : List Byte)
  /-- `X`: FLASH_STOP, R188 -/
  | x (payload : List Byte)
  /-- `UNKNOWN`: any other opcode byte, R189 -/
  | unknown (op : Byte) (payload : List Byte)
  /-- `BYTE_ESCAPED`: any byte while the framer is ESCAPED, R150 -/
  | byteEscaped (b : Byte)
  /-- `BYTE_ESC`: the escape byte, R151 -/
  | byteEsc
  /-- `BYTE_START_RESYNC`: START inside a frame, R153 -/
  | byteStartResync
  /-- `BYTE_END`: END while `buf[0] = START`, R154 -/
  | byteEnd
  /-- `BYTE_CONTENT`: every other byte, R156 -/
  | byteContent (b : Byte)
  /-- `HS_REQ`: one poll of the handshake matcher, R233 -/
  | hsReq
  /-- `HS_RSP`: the handshake response string, R235 -/
  | hsRsp
  /-- `RSP`: one response byte, R99 -/
  | rsp (r : Response)
deriving DecidableEq, Repr

end Sys2Proof
end

