-- ==== Sys2Proof/Decode.lean ====
section
/-! DEFINITION. The wire encodings of 30_encoding.md: the marker bytes and opcodes, the decoder (total, rejecting by
name) and, after it, the encoder written from the same rules. The machine decodes twice: each received byte by the
framer's state (`classify`, R157), and each complete frame by its opcode (`decodeCommand`, R180). `decode` reads a
whole encoding in the context it stands in. -/

namespace Sys2Proof

/-- R91 START, `@`. -/
def startByte : Byte := 0x40#8
/-- R91 END, line feed. -/
def endByte : Byte := 0x0A#8
/-- R91 ESC, backslash. -/
def escByte : Byte := 0x5C#8

/-- R94 opcode `M`. -/
def opM : Byte := 0x4D#8
/-- R94 opcode `N`. -/
def opN : Byte := 0x4E#8
/-- R94 opcode `D`. -/
def opD : Byte := 0x44#8
/-- R94 opcode `X`. -/
def opX : Byte := 0x58#8

/-- R98 `HS_REQ`, the 5 bytes `@BTL` and line feed. -/
def hsReqBytes : List Byte := [0x40#8, 0x42#8, 0x54#8, 0x4C#8, 0x0A#8]
/-- R98 `HS_RSP`, the 4 bytes `@OK` and line feed. -/
def hsRspBytes : List Byte := [0x40#8, 0x4F#8, 0x4B#8, 0x0A#8]

/-- R99: the wire byte of a response. -/
def Params.responseByte (c : Params) : Response → Byte
  | .ack        => c.rspAck
  | .invalid    => c.rspInvalid
  | .denied     => c.rspDenied
  | .sigValid   => c.rspSigValid
  | .sigInvalid => c.rspSigInvalid

/-- R94, R180: the command of a complete frame, by its opcode byte. -/
def decodeCommand (op : Byte) (payload : List Byte) : Instr :=
  if op = opM then .m payload
  else if op = opN then .n payload
  else if op = opD then .d payload
  else if op = opX then .x payload
  else .unknown op payload

/-- R157: the row of one received byte; the arms are tried in the rule's order. -/
def classify (mode : FramerMode) (idx : Nat) (buf0 b : Byte) : Instr :=
  if mode = .escaped then .byteEscaped b
  else if b = escByte then .byteEsc
  else if b = startByte ∧ 0 < idx then .byteStartResync
  else if b = endByte ∧ buf0 = startByte then .byteEnd
  else .byteContent b

/-- Why a byte string is rejected. -/
inductive DecodeError where
  /-- no byte at all -/
  | empty
  /-- a frame's first byte is not START -/
  | noStart
  /-- no unescaped END closes a frame that holds an opcode (R101) -/
  | truncated
  /-- not the handshake request (R98) -/
  | notRequest
  /-- not the handshake response (R98) -/
  | notReply
  /-- the byte of no response (R99) -/
  | noResponse
deriving DecidableEq, Repr

/-- Where an encoding stands: it decides which row a byte string is (R90 to R101). -/
inductive DecodeContext where
  /-- a whole wire frame, host to device (R92) -/
  | frame
  /-- one wire byte, by the framer's mode, index and `buf[0]` (R157) -/
  | wire (mode : FramerMode) (idx : Nat) (buf0 : Byte)
  /-- the handshake request, host to device (R98) -/
  | request
  /-- the handshake response, device to host (R98) -/
  | reply
  /-- one response byte, device to host (R99) -/
  | response
deriving DecidableEq, Repr

inductive Decoded where
  | ok (i : Instr) (rest : List Byte)
  | bad (e : DecodeError)
deriving DecidableEq, Repr

/-- The content of a frame after its START (opcode and payload, unescaped) and the bytes after its END. An unescaped
START restarts the frame (R153); an END before any opcode has no effect (R154); ESC makes the next byte content
whatever it is (R150). -/
def unframe (escaped : Bool) (acc : List Byte) : List Byte → Option (List Byte × List Byte)
  | [] => none
  | b :: bs =>
    if escaped then unframe false (acc ++ [b]) bs
    else if b = escByte then unframe true acc bs
    else if b = startByte then unframe false [] bs
    else if b = endByte then
      (if acc = [] then unframe false [] bs else some (acc, bs))
    else unframe false (acc ++ [b]) bs

/-- R92, R93: a whole wire frame to its command. -/
def decodeFrame : List Byte → Decoded
  | [] => .bad .empty
  | b :: bs =>
    if b = startByte then
      match unframe false [] bs with
      | some (op :: payload, rest) => .ok (decodeCommand op payload) rest
      | _ => .bad .truncated
    else .bad .noStart

/-- R99: which response a byte is; where two responses share a value (D21) the first of the table's order. -/
def decodeResponse (c : Params) (b : Byte) : Option Response :=
  [Response.ack, .invalid, .denied, .sigValid, .sigInvalid].find? (fun r => c.responseByte r = b)

/-- The decoder: the instruction at the front of a byte string in its context, and the bytes after it. -/
def decode (c : Params) : DecodeContext → List Byte → Decoded
  | .frame, bs => decodeFrame bs
  | .wire mode idx buf0, bs =>
    match bs with
    | [] => .bad .empty
    | b :: rest => .ok (classify mode idx buf0 b) rest
  | .request, bs => if bs.take 5 = hsReqBytes then .ok .hsReq (bs.drop 5) else .bad .notRequest
  | .reply, bs => if bs.take 4 = hsRspBytes then .ok .hsRsp (bs.drop 4) else .bad .notReply
  | .response, bs =>
    match bs with
    | [] => .bad .empty
    | b :: rest =>
      match decodeResponse c b with
      | some r => .ok (.rsp r) rest
      | none => .bad .noResponse

/-! ### The encoder -/

/-- R91: the three bytes with a meaning to the framer. -/
def isMarker (b : Byte) : Bool := b = startByte || b = endByte || b = escByte

/-- R92 `Esc`, the minimal encoding. -/
def escape : List Byte → List Byte
  | [] => []
  | b :: bs => if isMarker b then escByte :: b :: escape bs else b :: escape bs

/-- R92: the wire frame of an opcode and a payload. -/
def wireFrame (op : Byte) (payload : List Byte) : List Byte :=
  startByte :: (escape (op :: payload) ++ [endByte])

/-- The encoder: the bytes of an instruction. -/
def encode (c : Params) : Instr → List Byte
  | .m p           => wireFrame opM p
  | .n p           => wireFrame opN p
  | .d p           => wireFrame opD p
  | .x p           => wireFrame opX p
  | .unknown op p  => wireFrame op p
  | .byteEscaped b => [b]
  | .byteEsc       => [escByte]
  | .byteStartResync => [startByte]
  | .byteEnd       => [endByte]
  | .byteContent b => [b]
  | .hsReq         => hsReqBytes
  | .hsRsp         => hsRspBytes
  | .rsp r         => [c.responseByte r]

/-- A context in which the instruction's encoding is read as that instruction. -/
def Instr.context : Instr → DecodeContext
  | .m _ | .n _ | .d _ | .x _ | .unknown _ _ => .frame
  | .byteEscaped _   => .wire .escaped 0 0#8
  | .byteEsc         => .wire .normal 0 0#8
  | .byteStartResync => .wire .normal 1 startByte
  | .byteEnd         => .wire .normal 2 startByte
  | .byteContent _   => .wire .normal 0 0#8
  | .hsReq           => .request
  | .hsRsp           => .reply
  | .rsp _           => .response

/-! ### The opcode table's words -/

/-- The `k` bytes of a table word, the first word's byte least significant. -/
def wordBytes : Nat → Nat → List Byte
  | 0, _ => []
  | k + 1, w => BitVec.ofNat 8 w :: wordBytes k (w / 256)

/-- The payload of a table word's command frame: the bytes given, and zeros up to the shortest length the command
accepts without reading past its frame (R182 to R188). -/
def padPayload (op : Byte) (given : List Byte) : List Byte :=
  let want := if op = opM then 3 else if op = opN then 64 else if op = opD then 8 else 0
  given ++ List.replicate (want - given.length) 0#8

/-- The wire context and bytes of a table word: the handshake strings and the marker bytes as themselves, any other
word as the frame of its opcode byte (log 27). -/
def tableWire (bs : List Byte) : DecodeContext × List Byte :=
  if bs = hsReqBytes then (.request, bs)
  else if bs = hsRspBytes then (.reply, bs)
  else if bs = [escByte] then (.wire .normal 0 0#8, bs)
  else if bs = [startByte] then (.wire .normal 1 startByte, bs)
  else if bs = [endByte] then (.wire .normal 2 startByte, bs)
  else
    match bs with
    | [] => (.frame, [])
    | op :: given => (.frame, wireFrame op (padPayload op given))

/-- What the decoder reads from a table word. -/
def decodeTableWord (nbits w : Nat) : Option Instr :=
  let cw := tableWire (wordBytes (nbits / 8) w)
  match decode Config.launch cw.1 cw.2 with
  | .ok i _ => some i
  | .bad _ => none

end Sys2Proof
end

