-- ==== Sys2Proof/Machine/State.lean ====
section
/-! DEFINITION. The state of the block as plain data: every element of R20, the interfaces of R40 to R44, and the
moves of the two environment agents of R5 that plain data lets play (log 6). -/

namespace Sys2Proof.Machine

/-- R22: the block's program counter. -/
inductive Ctl where
  | handshakeWait
  | erase
  | receive
  | verifyAndBoot
  | doneReset
  | doneJump
deriving DecidableEq, Repr

/-- R22: what the block does next in a `Ctl` state once no sequence of primitives is in progress. -/
inductive Pos where
  /-- HANDSHAKE_WAIT before its entry actions (R232) -/
  | entry
  /-- HANDSHAKE_WAIT and RECEIVE: polling (R233, R237); ERASE: before its work; VERIFY_AND_BOOT: its verification -/
  | body
  /-- RECEIVE: the command of the complete frame in `buf` (R154, R180) -/
  | dispatch
  /-- RECEIVE and VERIFY_AND_BOOT: a response byte (R155, R239, R236) -/
  | respond (r : Response)
  /-- ERASE: the handshake response, once the erase has run (R235) -/
  | reply
deriving DecidableEq, Repr

/-- R32: the status of the last command. -/
inductive Status where
  | success
  | invalidPayload
  | deniedAddress
deriving DecidableEq, Repr

/-- R30: the array's self-timed cycle in progress; an erase names its block, which R131 (c) refers to. -/
inductive NvmBusy where
  | idle
  | program
  | erase (block : Nat)
deriving DecidableEq, Repr

/-- What the bytes of a READ are for (R128, R210, R211, R215). -/
inductive ReadUse where
  /-- step 1 of ERASE_RANGE with its limit: `sv` -/
  | vector (limit : Nat)
  /-- step 1 of VerifyImage: `dg_n` -/
  | imageSize
  /-- the chunk loop: `chunk` -/
  | chunk
  /-- step 5 of VerifyImage: the signature -/
  | signature
deriving DecidableEq, Repr

/-- R12, R22: one operation of a sequence in progress. A step runs one primitive of the first one; the operations still
to come are the position inside the sequence that the state keeps (log 8). -/
inductive Task where
  /-- R120: `left` bytes from `addr` on are to be read, after those in `got` -/
  | read (addr left : Nat) (got : List Byte) (use : ReadUse)
  /-- R122: the bytes of a WRITE that are not in the latch yet -/
  | write (addr : Nat) (bytes : List Byte)
  /-- R124: a Commit; its cycle is in progress while `nvm_busy` is PROGRAM -/
  | commit
  /-- R127: an EraseArray; its cycle is in progress while `nvm_busy` is ERASE -/
  | erase (block : Nat)
  /-- R128 step 3: the blocks the loop has still to erase -/
  | eraseFrom (block count : Nat)
  /-- R41: a Tx; the byte is on its way while `txFlight` holds it -/
  | tx (b : Byte)
  /-- R211: `H.init`, and the start of the chunk loop -/
  | hashInit
  /-- R211: `H.update` with the chunk that has been read -/
  | hashUpdate
  /-- R211: `H.final` -/
  | hashFinal
  /-- R215: `VERIFY` of the digest and the signature that has been read -/
  | verify (sig : List Byte)
  /-- R180: the command returns its status -/
  | ret (st : Status)
  /-- R155, R239, R236: what follows a response byte -/
  | after (r : Response)
  /-- R235: what follows the handshake response -/
  | enterReceive
deriving DecidableEq, Repr

/-- R41, R44: what leaves the block. -/
inductive Output where
  /-- a byte that reached the host -/
  | byte (b : Byte)
  /-- ResetDevice's request -/
  | resetRequest
  /-- TransferControl's jump of the CPU -/
  | jump (target : Nat)
deriving DecidableEq, Repr

/-- R5, R12: one move of an environment agent, or the block's turn. -/
inductive Move where
  /-- the block takes its next step -/
  | run
  /-- the host offers a byte (R40) -/
  | offer (b : Byte)
  /-- the host reads the oldest byte it has been sent (R300) -/
  | read
  /-- power fails, or the device is reset from outside, between two primitives or inside a cycle or a Tx (R131, R290) -/
  | powerFail
deriving DecidableEq, Repr

/-- The eight chaining words of the hashing collaborator (R212). -/
structure HashWords where
  a : HashWord
  b : HashWord
  c : HashWord
  d : HashWord
  e : HashWord
  f : HashWord
  g : HashWord
  h : HashWord
deriving DecidableEq, Repr

/-- R33 `dg_ctx`: the running state of the hashing collaborator (R212): chaining words, bytes of the block not yet
full, bytes seen. -/
structure HashCtx where
  words   : HashWords
  pending : List Byte
  count   : Nat
deriving DecidableEq, Repr

/-- Why the machine stops with a fault (R265, R294). -/
inductive Fault where
  /-- R123: a byte to be programmed has address at or beyond FLASH_SIZE. Raised by `latchLoad`. Safe: the spec's own
  model fault; the WRITE of a D under MOD24 reaches it, and the state of the step before holds what it committed. -/
  | programOutOfRange
  /-- R123: a byte loaded into a latch that holds another block. Raised by `latchLoad`. Safe: never from a WRITE that
  starts with an empty latch. -/
  | latchBlockMismatch
  /-- R127: an erase of a block at or beyond FLASH_SIZE / 64. Raised by `startErase`. Safe: never for BTLD_OFFSET. -/
  | eraseOutOfRange
  /-- R294: stuck(NO_BOOTLOADER): a reset finds `mem[0..4) ≠ VEC0`, so the CPU does not run the block. Raised by
  `resetBlock`. Safe: the spec's own stuck state. -/
  | noBootloader
deriving DecidableEq, Repr

/-- What has no meaning in the model. -/
inductive Refusal where
  /-- An instruction without a meaning; no arm of `exec` answers it. Safe. -/
  | notModelled (mnemonic : String)
  /-- R231, R238, U29: the block has handed the CPU to the application and takes no further step. Raised by
  `takeTurn`. Safe. -/
  | controlTransferred
deriving DecidableEq, Repr

/-- R60: NVM contents as address and byte pairs, addresses strictly rising, no entry that equals what an unlisted
address reads as. -/
abbrev Memory := List Host.Cell

/-- R20 and the interfaces. -/
@[ext]
structure State where
  /-- R6: the build-time parameters, changed by no step -/
  cfg       : Params
  /-- R20 `mem`: the NVM array, the only persisted state -/
  mem       : Memory
  /-- R22 `ctl` -/
  ctl       : Ctl
  /-- R22: what comes next in `ctl` -/
  pos       : Pos
  /-- R22: what is left of the sequence of primitives in progress, first first -/
  todo      : List Task
  /-- R23 `hs_matched` -/
  hsMatched : Nat
  /-- R24 `hs_budget` -/
  hsBudget  : Nat
  /-- R25 `rx_enable` -/
  rxEnable  : Bool
  /-- R26 `fr_mode` -/
  frMode    : FramerMode
  /-- R27 `fr_idx` -/
  frIdx     : Nat
  /-- R28 `buf` -/
  buf       : List Byte
  /-- R29 `latch_blk`: none is the spec's NONE -/
  latchBlk  : Option Nat
  /-- R29 `latch_map`: offset and byte pairs, offsets strictly rising (log 32) -/
  latchMap  : List Host.Cell
  /-- R30 `nvm_busy` -/
  nvmBusy   : NvmBusy
  /-- R31 `sv` -/
  sv        : List Byte
  /-- R32 `st` -/
  st        : Status
  /-- R33 `dg_n` -/
  dgN       : Nat
  /-- R33 `dg_addr` -/
  dgAddr    : Nat
  /-- R33 `dg_rem` -/
  dgRem     : Nat
  /-- R33 `chunk` -/
  chunk     : List Byte
  /-- R33 `dg_ctx` -/
  dgCtx     : HashCtx
  /-- R33 `digest` -/
  digest    : List Byte
  /-- R33 `sig_ok` -/
  sigOk     : Bool
  /-- R40: the bytes waiting in the receiver, oldest first -/
  rxq       : List Byte
  /-- R41: the byte handed to the transport that has not reached the host yet -/
  txFlight  : Option Byte
  /-- R41, R44: what has left the block, in order -/
  out       : List Output
  /-- R293: how many outputs came before this boot; the model's own -/
  bootFrom  : Nat
  /-- R300: how many bytes the host has been sent and has not read -/
  unread    : Nat
  /-- R290: false from a power failure or external reset until the reset that follows -/
  powered   : Bool
  /-- R5, R12: the moves to come of the environment agents and the block, first first -/
  env       : List Move
  /-- R13: how many draws have been taken; the model's own, it counts through `Config.draw` -/
  draws     : Nat
deriving DecidableEq, Repr

/-- R212: a hash state that nothing has written (log 5). -/
def HashCtx.unwritten : HashCtx := ⟨⟨0, 0, 0, 0, 0, 0, 0, 0⟩, [], 0⟩

/-- R291: the block right after a reset of the launch configuration, before the entry to HANDSHAKE_WAIT. The frame
buffer holds draws (R28); the elements the spec calls unwritten hold zeros (log 5). -/
def State.reset : State where
  cfg       := Config.launch
  mem       := []
  ctl       := .handshakeWait
  pos       := .entry
  todo      := []
  hsMatched := 0
  hsBudget  := 0
  rxEnable  := false
  frMode    := .normal
  frIdx     := 0
  buf       := (List.range 300).map Config.draw
  latchBlk  := none
  latchMap  := []
  nvmBusy   := .idle
  sv        := List.replicate 4 0#8
  st        := .success
  dgN       := 0
  dgAddr    := 0
  dgRem     := 0
  chunk     := List.replicate 64 0#8
  dgCtx     := HashCtx.unwritten
  digest    := List.replicate 32 0#8
  sigOk     := false
  rxq       := []
  txFlight  := none
  out       := []
  bootFrom  := 0
  unread    := 0
  powered   := true
  env       := []
  draws     := 300

end Sys2Proof.Machine
end

