-- ==== Sys2Proof/Machine/Ops.lean ====
section
/-! DEFINITION. The named operations every meaning is built from: the NVM array as a list of cells, one update per
group of state elements, power failure, the storage primitives (R120 to R127), each with its start and its completion
where the array is self-timed, the RX and TX interfaces (R40, R41), raising a status (R261: the block's only exception;
nothing returns from it, R263), the terminal outputs (R238) and Reset (R290). -/

namespace Sys2Proof.Machine

/-! ### The NVM array -/

/-- What a step answers. -/
abbrev Result := Host.Outcome State Fault Refusal

/-- What an address that memory does not list reads as: the erased byte (R66 leaves the launch contents open, log 7). -/
def Memory.unlisted : Byte := erasedByte

def Memory.read : Memory → Nat → Byte
  | [], _ => Memory.unlisted
  | cell :: more, x => if cell.1 = x then cell.2 else Memory.read more x

/-- Set one entry of a list of cells: between the entries of lower and of higher keys. -/
def setCell (key : Nat) (v : Byte) (cells : List Host.Cell) : List Host.Cell :=
  cells.filter (fun cell => cell.1 < key) ++ (key, v) :: cells.filter fun cell => key < cell.1

/-- Write one byte; writing what an unlisted address reads as removes the entry. -/
def Memory.write (m : Memory) (a : Nat) (v : Byte) : Memory :=
  if v = Memory.unlisted then m.filter (fun cell => cell.1 ≠ a) else setCell a v m

/-- R127: every byte of block `k` reads as the erased value. -/
def Memory.eraseBlock (m : Memory) (k : Nat) : Memory := m.filter (fun cell => cell.1 / 64 ≠ k)

/-- Keys strictly rising. -/
def cellsSorted (cells : List Host.Cell) : Bool := (cells.map Prod.fst).Pairwise (· < ·)

/-- The canonical form: addresses strictly rising, no entry equal to what an unlisted address reads as. -/
def Memory.wf (m : Memory) : Bool := cellsSorted m && m.all (fun cell => cell.2 ≠ Memory.unlisted)

/-- Every listed address lies in the address space `[0, FLASH_SIZE)` (R60). -/
def Memory.inRange (m : Memory) (size : Nat) : Bool := m.all (fun cell => decide (cell.1 < size))

/-! ### One update per group of state elements -/

def State.setMem (s : State) (m : Memory) : State := { s with mem := m }
def State.goto (s : State) (c : Ctl) (p : Pos) : State := { s with ctl := c, pos := p }
def State.setPos (s : State) (p : Pos) : State := { s with pos := p }
def State.setTodo (s : State) (ts : List Task) : State := { s with todo := ts }
def State.setHandshake (s : State) (matched budget : Nat) : State :=
  { s with hsMatched := matched, hsBudget := budget }
def State.setRx (s : State) (enable : Bool) (q : List Byte) : State := { s with rxEnable := enable, rxq := q }
def State.setFramer (s : State) (mode : FramerMode) (idx : Nat) (buf : List Byte) : State :=
  { s with frMode := mode, frIdx := idx, buf := buf }
def State.setLatch (s : State) (blk : Option Nat) (map : List Host.Cell) : State :=
  { s with latchBlk := blk, latchMap := map }
def State.setBusy (s : State) (b : NvmBusy) : State := { s with nvmBusy := b }
def State.setSv (s : State) (v : List Byte) : State := { s with sv := v }
def State.setStatus (s : State) (st : Status) : State := { s with st := st }
def State.setSize (s : State) (n : Nat) : State := { s with dgN := n }
def State.setHash (s : State) (addr rem : Nat) (chunk : List Byte) (ctx : HashCtx) : State :=
  { s with dgAddr := addr, dgRem := rem, chunk := chunk, dgCtx := ctx }
def State.setDigest (s : State) (d : List Byte) : State := { s with digest := d }
def State.setVerdict (s : State) (ok : Bool) : State := { s with sigOk := ok }
def State.setFlight (s : State) (b : Option Byte) : State := { s with txFlight := b }
def State.setOut (s : State) (o : List Output) (n : Nat) : State := { s with out := o, unread := n }
def State.setPowered (s : State) (p : Bool) : State := { s with powered := p }
def State.setEnv (s : State) (e : List Move) : State := { s with env := e }
def State.setDraws (s : State) (n : Nat) : State := { s with draws := n }

/-- R41: a byte reaches the host. -/
def State.deliver (s : State) (b : Byte) : State := s.setOut (s.out ++ [.byte b]) (s.unread + 1)

/-! ### Power failure -/

/-- The bytes at some addresses become draws, numbered from `n` on. -/
def drawCells : Memory → Nat → List Nat → Memory
  | m, _, [] => m
  | m, n, a :: as => drawCells (m.write a (Config.draw n)) (n + 1) as

/-- R62: the addresses of block `k`. -/
def blockAddrs (k : Nat) : List Nat := (List.range 64).map (64 * k + ·)

/-- The addresses a Commit of the latch programs (R124). -/
def latchAddrs (s : State) : List Nat :=
  match s.latchBlk with
  | some k => s.latchMap.map (fun c => 64 * k + c.1)
  | none => []

/-- R131: the bytes an interruption at this instant makes draws. -/
def exposedAddrs (s : State) : List Nat :=
  match s.nvmBusy with
  | .idle => []
  | .program => latchAddrs s
  | .erase k => blockAddrs k

/-- R290, U16: what becomes of a byte in flight at the failure: it reaches the host or does not. -/
def arrived (s : State) : List Output :=
  match s.txFlight with
  | some b => if Config.drawBit s.draws then [.byte b] else []
  | none => []

/-- R131: power fails, or the device is reset from outside, now. The exposed bytes become draws, the rest of `mem` is
kept, the sequence in progress, the latch, the cycle and the receiver are lost; what the reset that follows gives the
other volatile elements is `volatileReset`. -/
def powerFail (s : State) : State :=
  let t := (s.setMem (drawCells s.mem s.draws (exposedAddrs s))).setDraws (s.draws + (exposedAddrs s).length + 1)
  let t := (t.setOut (s.out ++ arrived s) (s.unread + (arrived s).length)).setFlight none
  ((((t.setTodo []).setLatch none []).setBusy .idle).setRx false []).setPowered false

/-! ### The storage primitives -/

/-- R120 `rd(a)`: the byte at an address; at or beyond FLASH_SIZE a draw. -/
def readByte (s : State) (a : Nat) : Byte := if a < s.cfg.flashSize then s.mem.read a else Config.draw s.draws

/-- The state after `rd(a)`: the same, but for the count of the draws taken (R120). -/
def afterByte (s : State) (a : Nat) : State := if a < s.cfg.flashSize then s else s.setDraws (s.draws + 1)

/-- R123. -/
def latchLoad (a : Nat) (v : Byte) (s : State) : Result :=
  if s.cfg.flashSize ≤ a then .fault .programOutOfRange
  else if s.latchBlk ≠ none ∧ s.latchBlk ≠ some (a / 64) then .fault .latchBlockMismatch
  else .next (s.setLatch (some (a / 64)) (setCell (a % 64) v s.latchMap))

/-- R125. -/
def programByte (c : Params) (old v : Byte) : Byte :=
  match c.programModel with
  | .overwrite => v
  | .and => old &&& v

/-- R124: some latched cells of block `k` are programmed. -/
def programCells (c : Params) (k : Nat) (cells : List Host.Cell) (m : Memory) : Memory :=
  cells.foldl (fun m cell => m.write (64 * k + cell.1) (programByte c (m.read (64 * k + cell.1)) cell.2)) m

/-- R124: the start of a Commit. -/
def startCommit (s : State) : State := s.setBusy .program

/-- R124: the completion of a Commit. -/
def finishCommit (s : State) : State :=
  let m := match s.latchBlk with
    | some k => programCells s.cfg k s.latchMap s.mem
    | none => s.mem
  ((s.setMem m).setLatch none []).setBusy .idle

/-- R127: the start of an EraseArray. -/
def startErase (k : Nat) (s : State) : Result :=
  if s.cfg.flashSize / 64 ≤ k then .fault .eraseOutOfRange else .next (s.setBusy (.erase k))

/-- R127: the completion of an EraseArray. -/
def finishErase (k : Nat) (s : State) : State := (s.setMem (s.mem.eraseBlock k)).setBusy .idle

/-! ### The interfaces -/

/-- R40: one poll of the RX interface. -/
def rxPoll (s : State) : Option Byte × State :=
  if s.rxEnable then
    match s.rxq with
    | b :: q => (some b, s.setRx true q)
    | [] => (none, s)
  else (none, s)

/-- R41: the start of a Tx: the byte is on its way to the transport (log 9). -/
def startTx (b : Byte) (s : State) : State := s.setFlight (some b)

/-- R41: the end of a Tx: the transport has the byte. -/
def finishTx (b : Byte) (s : State) : State := (s.setFlight none).deliver b

/-! ### Raising a status and the terminal outputs -/

/-- R239, R99: the response to a status. -/
def Status.response : Status → Response
  | .success => .ack
  | .invalidPayload => .invalid
  | .deniedAddress => .denied

/-- R261: raise a non-success status. The framer keeps its state, nothing is saved, control passes to the error report
of R239, which sends the status's response byte. -/
def raiseStatus (st : Status) (s : State) : State := (s.setStatus st).setPos (.respond st.response)

/-- R180, R155: a command returns its status to the framer: Success goes on to the acknowledgment, any other status is
raised. -/
def returnStatus (st : Status) (s : State) : State :=
  if st = .success then (s.setStatus .success).setPos (.respond .ack) else raiseStatus st s

/-- R238 `ResetDevice()`. -/
def resetDevice (s : State) : State := (s.goto .doneReset .body).setOut (s.out ++ [.resetRequest]) s.unread

/-- R238 `TransferControl(t)`. -/
def transferControl (t : Nat) (s : State) : State := (s.goto .doneJump .body).setOut (s.out ++ [.jump t]) s.unread

/-! ### Reset -/

/-- R291: every volatile element at its reset value; `mem` is kept, `buf` holds draws. -/
def volatileReset (s : State) : State where
  cfg       := s.cfg
  mem       := s.mem
  ctl       := .handshakeWait
  pos       := .entry
  todo      := []
  hsMatched := 0
  hsBudget  := 0
  rxEnable  := false
  frMode    := .normal
  frIdx     := 0
  buf       := (List.range s.cfg.frameBufSize).map fun i => Config.draw (s.draws + i)
  latchBlk  := none
  latchMap  := []
  nvmBusy   := .idle
  sv        := List.replicate 4 0#8
  st        := .success
  dgN       := 0
  dgAddr    := 0
  dgRem     := 0
  chunk     := List.replicate 64 0#8
  dgCtx     := HashCtx.unwritten
  digest    := List.replicate 32 0#8
  sigOk     := false
  rxq       := []
  txFlight  := none
  out       := s.out
  bootFrom  := s.out.length
  unread    := s.unread
  powered   := true
  env       := s.env
  draws     := s.draws + s.cfg.frameBufSize

/-- R294: the CPU runs the bootloader after a reset. -/
def vectorIntact (s : State) : Bool := (List.range 4).map s.mem.read = s.cfg.vec0

/-- R290 `Reset()`; the entry to HANDSHAKE_WAIT is the block's next step (R292). -/
def resetBlock (s : State) : Result :=
  if vectorIntact s then .next (volatileReset s) else .fault .noBootloader

end Sys2Proof.Machine
end

