-- ==== Sys2Proof/Machine/Sha.lean ====
section
/-! DEFINITION. The hashing collaborator `SHA256` with its streaming interface (R212), by its default, the SHA-256 of
FIPS 180-4 (G4, log 13). No rule depends on its internals. -/

namespace Sys2Proof.Machine

/-- The primes up to `n`, in order. -/
def primesTo (n : Nat) : List Nat :=
  (List.range (n - 1)).foldl (fun found i => if found.all (fun p => (i + 2) % p ≠ 0) then found ++ [i + 2] else found) []

/-- The largest number of at most `bits` further bits above `r` whose `k`-th power is at most `n`. -/
def rootBits (k n : Nat) : Nat → Nat → Nat
  | 0, r => r
  | bits + 1, r => rootBits k n bits (if (r + 2 ^ bits) ^ k ≤ n then r + 2 ^ bits else r)

/-- The first 32 bits of the fractional part of the `k`-th root of a number below 512. -/
def rootWord (k n : Nat) : HashWord := BitVec.ofNat 32 (rootBits k (n * 2 ^ (32 * k)) 37 0)

/-- The round constants: the cube roots of the first 64 primes. -/
@[irreducible] def roundConstants : List HashWord := (primesTo 311).map (rootWord 3)

/-- The initial chaining words: the square roots of the first eight primes. -/
@[irreducible] def initialWords : HashWords :=
  ⟨rootWord 2 2, rootWord 2 3, rootWord 2 5, rootWord 2 7, rootWord 2 11, rootWord 2 13, rootWord 2 17, rootWord 2 19⟩

/-- A word spread by two rotations and a third word. -/
def mixed (x : HashWord) (i j : Nat) (third : HashWord) : HashWord := third ^^^ x.rotateRight j ^^^ x.rotateRight i

/-- Bit by bit `y` where `x` has a one and `z` where it has a zero. -/
def selected (x y z : HashWord) : HashWord := z ^^^ x &&& (y ^^^ z)

/-- Bit by bit what two of the three have. -/
def agreed (x y z : HashWord) : HashWord := x &&& y ||| z &&& (x ||| y)

/-- One round, with the round constant and the schedule word added up. -/
def shaRound (v : HashWords) (kw : HashWord) : HashWords :=
  let low := kw + v.h + selected v.e v.f v.g + mixed v.e 6 11 (v.e.rotateRight 25)
  { v with
    a := low + agreed v.a v.b v.c + mixed v.a 2 13 (v.a.rotateRight 22)
    b := v.a, c := v.b, d := v.c, e := low + v.d, f := v.e, g := v.f, h := v.g }

/-- The schedule word that follows a window of sixteen. -/
def nextScheduleWord (w : List HashWord) : HashWord :=
  w.getD 0 0 + w.getD 9 0 + mixed (w.getD 1 0) 7 18 (w.getD 1 0 >>> 3) + mixed (w.getD 14 0) 17 19 (w.getD 14 0 >>> 10)

/-- The rounds, over the constants and a sliding window of the message schedule. -/
def shaRounds : List HashWord → List HashWord → HashWords → HashWords
  | [], _, v => v
  | k :: ks, w, v => shaRounds ks (w.drop 1 ++ [nextScheduleWord w]) (shaRound v (k + w.getD 0 0))

/-- The word `i` of a block, its first byte the most significant. -/
def blockWord (block : List Byte) (i : Nat) : HashWord :=
  ((block.drop (4 * i)).take 4).foldl (fun w b => w <<< 8 ||| b.setWidth 32) 0

/-- The sums of the words of the same name. -/
def HashWords.plus (x y : HashWords) : HashWords :=
  let sum (word : HashWords → HashWord) : HashWord := word x + word y
  ⟨sum (·.a), sum (·.b), sum (·.c), sum (·.d), sum (·.e), sum (·.f), sum (·.g), sum (·.h)⟩

/-- The compression of one 64-byte block. -/
def shaCompress (h : HashWords) (block : List Byte) : HashWords :=
  h.plus (shaRounds roundConstants ((List.range 16).map (blockWord block)) h)

/-- One more byte of the message; the block it fills is compressed. -/
def hashByte (c : HashCtx) (b : Byte) : HashCtx :=
  let p := c.pending ++ [b]
  if p.length = 64 then ⟨shaCompress c.words p, [], c.count + 1⟩ else ⟨c.words, p, c.count + 1⟩

/-- R212 `H.init()`. -/
def hashInit : HashCtx := ⟨initialWords, [], 0⟩

/-- R212 `H.update(ctx, bytes)`. -/
def hashUpdate (c : HashCtx) (bytes : List Byte) : HashCtx := bytes.foldl hashByte c

/-- The `k` low bytes of a number, most significant first. -/
def bigEndianBytes : Nat → Nat → List Byte
  | 0, _ => []
  | k + 1, n => bigEndianBytes k (n / 256) ++ [BitVec.ofNat 8 n]

/-- The padding of a message of `n` bytes: a one bit, zeros, the length in bits. -/
def shaPadding (n : Nat) : List Byte :=
  0x80#8 :: (List.replicate ((119 - n % 64) % 64) 0#8 ++ bigEndianBytes 8 (8 * n))

/-- The bytes of a chaining word, most significant first. -/
def hashWordBytes (w : HashWord) : List Byte := bigEndianBytes 4 w.toNat

/-- The 32 bytes of the chaining words. -/
def HashWords.bytes (w : HashWords) : List Byte := [w.a, w.b, w.c, w.d, w.e, w.f, w.g, w.h].flatMap hashWordBytes

/-- R212 `H.final(ctx)`. -/
def hashFinal (c : HashCtx) : List Byte := (hashUpdate c (shaPadding c.count)).words.bytes

/-- R6 `SHA256`. -/
def sha256 (message : List Byte) : List Byte := hashFinal (hashUpdate hashInit message)

end Sys2Proof.Machine
end

