-- ==== Sys2Proof/Machine/Operands.lean ====
section
/-! DEFINITION. The operand forms: big-endian numbers (R67, R103), the payload bytes of a command (R181), the fields of
a `D` payload (R96). -/

namespace Sys2Proof.Machine

/-- R9 `BE24`. -/
def be24 (b0 b1 b2 : Byte) : Nat := b0.toNat * 2 ^ 16 + b1.toNat * 2 ^ 8 + b2.toNat

/-- R181: payload byte `P(i)` of a command whose frame gave the payload `p`: the frame's byte, past the frame what the
buffer holds there, past the buffer a draw (log 12). -/
def payloadByte (p : List Byte) (s : State) (i : Nat) : Byte :=
  match p[i]? with
  | some b => b
  | none => if 2 + i < s.cfg.frameBufSize then s.buf.getD (2 + i) 0#8 else Config.draw (s.draws + i)

/-- R181: the payload bytes `P(i) .. P(i + n − 1)`. -/
def payloadBytes (p : List Byte) (s : State) (i n : Nat) : List Byte :=
  (List.range n).map fun j => payloadByte p s (i + j)

/-- The state after payload bytes up to index `top` were read: the same, but for the count of the draws taken. -/
def afterPayload (s : State) (top : Nat) : State :=
  if 2 + top < s.cfg.frameBufSize then s else s.setDraws (s.draws + top + 1)

/-- R96 `size`. -/
def dSize (p : List Byte) (s : State) : Nat := (payloadByte p s 0).toNat

/-- R96 `addr`. -/
def dAddr (p : List Byte) (s : State) : Nat := be24 (payloadByte p s 1) (payloadByte p s 2) (payloadByte p s 3)

/-- R186, R187: the highest payload index the writes of a `D` command read. -/
def dTop (p : List Byte) (s : State) : Nat :=
  if dAddr p s = 0 then max 7 (dSize p s + 3) else dSize p s + 3

end Sys2Proof.Machine
end

