-- ==== Sys2Proof/Machine/Flags.lean ====
section
/-! DEFINITION. The block has no condition codes but the status of a command and the verdict of a verification (R34).
This file says what the commands' checks give (R260, R264) and how a status is numbered (R32) and answered (R99). -/

namespace Sys2Proof.Machine

/-- R32: the internal code, the model's own (D39). -/
def Status.code : Status → Nat
  | .success => 0
  | .invalidPayload => 1
  | .deniedAddress => 2

/-- R182: the check of `M`. -/
def statusM (p : List Byte) : Status := if p.length = 3 then .success else .invalidPayload

/-- R183: the check of `N`. -/
def statusN (p : List Byte) : Status := if p.length = 64 then .success else .invalidPayload

/-- R185: the sum the address check compares. -/
def dSum (c : Params) (addr size : Nat) : Nat :=
  match c.addrSumMode with
  | .exact => addr + size
  | .mod24 => (addr + size) % 2 ^ 24

/-- R184, R185, R264: the checks of `D`, the length before the address. -/
def statusD (p : List Byte) (s : State) : Status :=
  if p.length < 5 then .invalidPayload
  else if s.cfg.signatOffset ≤ dSum s.cfg (dAddr p s) (dSize p s) then .deniedAddress
  else .success

/-- R188: the check of `X`. -/
def statusX (p : List Byte) : Status := if p.length = 0 then .success else .invalidPayload

/-- R180, R260: the status that a command's checks give. -/
def commandStatus (i : Instr) (s : State) : Status :=
  match i with
  | .m p => statusM p
  | .n p => statusN p
  | .d p => statusD p s
  | .x p => statusX p
  | .unknown _ _ => .invalidPayload
  | _ => .success

/-- R236, R260: the response to a verdict. -/
def verdictResponse (ok : Bool) : Response := if ok then .sigValid else .sigInvalid

end Sys2Proof.Machine
end

