-- ==== Sys2Proof/Machine/Storage.lean ====
section
/-! DEFINITION. The operations of the storage controller as sequences of its primitives: READ, WRITE, ERASE_BLOCK and
ERASE_RANGE (R121 to R128). Each `…Step` runs one primitive of the operation it is named after, with `rest` what comes
after that operation. -/

namespace Sys2Proof.Machine

/-- R122: WRITE as a task; a WRITE of no bytes issues no primitive (D11). -/
def writeTasks (a : Nat) (v : List Byte) : List Task := if v = [] then [] else [.write a v]

/-- R122: what is left of a WRITE once the byte for address `a` is in the latch: a Commit comes when the next byte lies in
another block or there is none. -/
def afterLoad (a : Nat) (later : List Byte) : List Task :=
  if (a + 1) % 64 = 0 ∨ later = [] then .commit :: writeTasks (a + 1) later else writeTasks (a + 1) later

/-- R122: the next byte of a WRITE enters the latch. -/
def writeStep (a : Nat) (bytes : List Byte) (rest : List Task) (s : State) : Result :=
  match bytes with
  | [] => .next (s.setTodo rest)
  | v :: later => latchLoad a v (s.setTodo (afterLoad a later ++ rest))

/-- R124: a Commit starts, or the cycle it started completes. -/
def commitStep (rest : List Task) (s : State) : Result :=
  .next (if s.nvmBusy = .program then finishCommit (s.setTodo rest) else startCommit s)

/-- R126, R127: an erase starts, or the cycle it started completes. -/
def eraseStep (k : Nat) (rest : List Task) (s : State) : Result :=
  if s.nvmBusy = .erase k then .next (finishErase k (s.setTodo rest)) else startErase k s

/-- R128 step 3: the loop over `n` blocks from `k` on. -/
def eraseTasks (k n : Nat) : List Task := if n = 0 then [] else [.eraseFrom k n]

/-- R128 step 3: what the loop does right after the erase of block `k`: block 0 gets the saved vector back. -/
def restoreVector (k : Nat) (s : State) : List Task := if k = 0 then writeTasks 0 s.sv else []

/-- R128 step 3: the loop starts the erase of its next block. -/
def eraseFromStep (k n : Nat) (rest : List Task) (s : State) : Result :=
  if n = 0 then .next (s.setTodo rest)
  else startErase k (s.setTodo (.erase k :: (restoreVector k s ++ eraseTasks (k + 1) (n - 1) ++ rest)))

/-- R128: ERASE_RANGE, at its step 1. -/
def eraseRangeTasks (limit : Nat) : List Task := [.read 0 vecLen [] (.vector limit)]

/-- R128: the end of step 1; steps 2 and 3 are to come. -/
def saveVector (limit : Nat) (v : List Byte) (rest : List Task) (s : State) : State :=
  (s.setSv v).setTodo (.erase 1 :: (writeTasks backupAddr v ++ eraseTasks 0 (limit / 64) ++ rest))

end Sys2Proof.Machine
end

