-- ==== Sys2Proof/Machine/Digest.lean ====
section
/-! DEFINITION. The digest pipeline (43_digest.md): `VerifyImage`, R210 to R215, from READ to READ. -/

namespace Sys2Proof.Machine

/-- R213 `Canon(c)`. -/
def canon (c : List Byte) : List Byte := (c.drop 4).take 4 ++ List.replicate 4 blankByte ++ c.drop 8

/-- R211: the chunk read at `dg_addr`, the one at address 0 canonicalized; `H.update` is next. -/
def storeChunk (bytes : List Byte) (rest : List Task) (s : State) : State :=
  (s.setHash s.dgAddr s.dgRem (if s.dgAddr = 0 then canon bytes else bytes) s.dgCtx).setTodo (.hashUpdate :: rest)

/-- R210: `VerifyImage()` starts with the READ of the size field. -/
def startVerify (s : State) : State := s.setTodo [.read s.cfg.codeSizeOffset sizeLen [] .imageSize]

/-- R211: the head of the chunk loop: the next chunk is read, or the digest is finalized. -/
def nextChunk (rest : List Task) (s : State) : State :=
  s.setTodo (if s.dgRem = 0 then .hashFinal :: rest else .read s.dgAddr blockSize [] .chunk :: rest)

/-- R210: the image size is known. -/
def useSize (v : List Byte) (rest : List Task) (s : State) : State :=
  (s.setSize (be24 (v.getD 0 0#8) (v.getD 1 0#8) (v.getD 2 0#8))).setTodo (.hashInit :: rest)

/-- R211: `H.init`, and the start of the chunk loop. -/
def startHash (rest : List Task) (s : State) : State := nextChunk rest (s.setHash 0 s.dgN s.chunk hashInit)

/-- R211: `H.update` with the chunk, the last one truncated to the bytes that remain. -/
def updateHash (rest : List Task) (s : State) : State :=
  let m := min 64 s.dgRem
  nextChunk rest (s.setHash (s.dgAddr + 64) (s.dgRem - m) s.chunk (hashUpdate s.dgCtx (s.chunk.take m)))

/-- R211, R215: `H.final`; the signature is read next. -/
def finishHash (rest : List Task) (s : State) : State :=
  (s.setDigest (hashFinal s.dgCtx)).setTodo (.read s.cfg.signatOffset sigLen [] .signature :: rest)

/-- R215, R236: the verdict of the signature collaborator; its response is next. -/
def judgeImage (sig : List Byte) (rest : List Task) (s : State) : State :=
  let ok := Config.verify Config.pubKey s.digest sig
  ((s.setVerdict ok).setPos (.respond (verdictResponse ok))).setTodo rest

end Sys2Proof.Machine
end

