-- ==== Sys2Proof/Machine/Framer.lean ====
section
/-! DEFINITION. The protocol framer (41_framer.md): the byte arms R150 to R156 and the whole step R157. -/

namespace Sys2Proof.Machine

/-- R152 `Store(b)`. -/
def storeByte (b : Byte) (s : State) : State :=
  match s.cfg.framerWrap with
  | .afterStore =>
    let next := if s.frIdx + 1 = s.cfg.frameBufSize then 0 else s.frIdx + 1
    s.setFramer s.frMode next (s.buf.set s.frIdx b)
  | .beforeStore =>
    let i := if s.frIdx = s.cfg.frameBufSize then 0 else s.frIdx
    s.setFramer s.frMode (i + 1) (s.buf.set i b)

/-- R150: the escaped byte is stored whatever it is. -/
def escapedByte (b : Byte) (s : State) : State :=
  let t := storeByte b s
  t.setFramer .normal t.frIdx t.buf

/-- R151: ESC is consumed and not stored. -/
def escapePrefix (s : State) : State := s.setFramer .escaped s.frIdx s.buf

/-- R153: the partial frame is discarded. -/
def resync (s : State) : State := s.setFramer s.frMode 1 (s.buf.set 0 startByte)

/-- R154: a frame that holds an opcode is dispatched; any other is left as it is. -/
def frameEnd (s : State) : State := if 2 ≤ s.frIdx then s.setPos .dispatch else s

/-- R157 `OnByte(b)`, arm by arm. -/
def onByte (b : Byte) (s : State) : State :=
  if s.frMode = .escaped then escapedByte b s
  else if b = escByte then escapePrefix s
  else if b = startByte ∧ 0 < s.frIdx then resync s
  else if b = endByte ∧ s.buf.getD 0 0#8 = startByte then frameEnd s
  else storeByte b s

/-- R157: the row of the received byte in this state. -/
def wireInstr (s : State) (b : Byte) : Instr := classify s.frMode s.frIdx (s.buf.getD 0 0#8) b

/-- R155, C13: the command of the complete frame `buf[0 .. fr_idx)`. -/
def frameInstr (s : State) : Instr := decodeCommand (s.buf.getD 1 0#8) ((s.buf.take s.frIdx).drop 2)

/-- BYTE_ESCAPED, R150. -/
def execByteEscaped (b : Byte) (s : State) : Host.Outcome State Fault Refusal := .next (escapedByte b s)

/-- BYTE_ESC, R151. -/
def execByteEsc (s : State) : Host.Outcome State Fault Refusal := .next (escapePrefix s)

/-- BYTE_START_RESYNC, R153. -/
def execByteStartResync (s : State) : Host.Outcome State Fault Refusal := .next (resync s)

/-- BYTE_END, R154. The frame's command is the block's next step (R22, log 10). -/
def execByteEnd (s : State) : Host.Outcome State Fault Refusal := .next (frameEnd s)

/-- BYTE_CONTENT, R156. -/
def execByteContent (b : Byte) (s : State) : Host.Outcome State Fault Refusal := .next (storeByte b s)

end Sys2Proof.Machine
end

