-- ==== Sys2Proof/Machine/Session.lean ====
section
/-! DEFINITION. The commands of a frame (42_session.md): each checks, and either answers a status or hands its WRITEs to
the storage controller, which run primitive by primitive before the command returns Success (R180, log 8). -/

namespace Sys2Proof.Machine

/-- R180: a command's writes, then the status Success. -/
def thenSuccess (writes : List Task) (s : State) : State := s.setTodo (writes ++ [.ret .success])

/-- `M`, R182 `CmdM`. -/
def execM (p : List Byte) (s : State) : Host.Outcome State Fault Refusal :=
  .next (if statusM p = .success then thenSuccess (writeTasks s.cfg.codeSizeOffset (payloadBytes p s 0 3)) s
    else returnStatus (statusM p) s)

/-- `N`, R183 `CmdN`. -/
def execN (p : List Byte) (s : State) : Host.Outcome State Fault Refusal :=
  .next (if statusN p = .success then thenSuccess (writeTasks s.cfg.signatOffset (payloadBytes p s 0 64)) s
    else returnStatus (statusN p) s)

/-- R186: the writes of a `D` at address 0. -/
def writesAtZero (p : List Byte) (s : State) : List Task :=
  writeTasks 4 (payloadBytes p s 4 4) ++ if 8 < dSize p s then writeTasks 8 (payloadBytes p s 8 (dSize p s - 4)) else []

/-- R187: the write of a `D` at any other address. -/
def writesAtAddr (p : List Byte) (s : State) : List Task := writeTasks (dAddr p s) (payloadBytes p s 4 (dSize p s))

/-- `D`, R184 to R187 `CmdD`. -/
def execD (p : List Byte) (s : State) : Host.Outcome State Fault Refusal :=
  .next (if statusD p s = .success then
      thenSuccess (if dAddr p s = 0 then writesAtZero p s else writesAtAddr p s) (afterPayload s (dTop p s))
    else returnStatus (statusD p s) s)

/-- `X`, R188 `CmdX`: it does not return when the payload is empty. -/
def execX (p : List Byte) (s : State) : Host.Outcome State Fault Refusal :=
  .next (if statusX p = .success then resetDevice s else returnStatus (statusX p) s)

/-- UNKNOWN, R189: InvalidPayload whatever the payload is. -/
def execUnknown (_op : Byte) (_p : List Byte) (s : State) : Host.Outcome State Fault Refusal :=
  .next (returnStatus .invalidPayload s)

end Sys2Proof.Machine
end

