-- ==== Sys2Proof/Machine/Sequencer.lean ====
section
/-! DEFINITION. The sequencer (44_sequencer.md): the entry to HANDSHAKE_WAIT, the handshake step, the start of
ERASE, and the sending of the responses. -/

namespace Sys2Proof.Machine

/-- R232: the entry to HANDSHAKE_WAIT, the block's first step after a reset. -/
def enterHandshakeWait (s : State) : State :=
  ((s.setRx true s.rxq).setHandshake 0 s.cfg.handshakeBudget).setPos .body

/-- R233: the matched-prefix length after a byte; no backtracking. -/
def matchNext (matched : Nat) (b : Byte) : Nat := if hsReqBytes[matched]? = some b then matched + 1 else 0

/-- R233, R234: what a received byte does to the matcher. -/
def matchByte (b : Byte) (s : State) : State :=
  let k := matchNext s.hsMatched b
  let t := s.setHandshake k s.hsBudget
  if k = 5 then t.goto .erase .body else t

/-- R233 `HandshakeStep()`. -/
def handshakeStep (s : State) : State :=
  if s.hsBudget = 0 then s.goto .verifyAndBoot .body
  else
    match rxPoll (s.setHandshake s.hsMatched (s.hsBudget - 1)) with
    | (none, t) => t
    | (some b, t) => matchByte b t

/-- R235: the ERASE state up to the handshake response: the receiver goes off, ERASE_RANGE starts. -/
def startEraseState (s : State) : State :=
  ((s.setRx false []).setPos .reply).setTodo (eraseRangeTasks s.cfg.btldOffset)

/-- R235: the entry to RECEIVE after the handshake response has been sent. -/
def enterReceive (s : State) : State := ((s.setRx true []).setFramer .normal 0 s.buf).goto .receive .body

/-- R155, R239, R236: what follows a response byte. -/
def afterResponse (r : Response) (s : State) : State :=
  match r with
  | .ack => s.goto .receive .body
  | .invalid => resetDevice s
  | .denied => resetDevice s
  | .sigValid => transferControl appEntry s
  | .sigInvalid => resetDevice s

/-- R155: before the acknowledgment the framer is ready for the next frame. -/
def beforeResponse (r : Response) (s : State) : State :=
  match r with
  | .ack => s.setFramer s.frMode 0 s.buf
  | _ => s

/-- HS_REQ, R233: one poll of the handshake matcher. -/
def execHsReq (s : State) : Host.Outcome State Fault Refusal := .next (handshakeStep s)

/-- HS_RSP, R235: the handshake response is sent byte by byte, then the receiver is enabled and RECEIVE entered. -/
def execHsRsp (s : State) : Host.Outcome State Fault Refusal :=
  .next (s.setTodo (hsRspBytes.map .tx ++ [.enterReceive]))

/-- RSP, R99: one response byte is sent, then comes what follows it. -/
def execRsp (r : Response) (s : State) : Host.Outcome State Fault Refusal :=
  .next ((beforeResponse r s).setTodo [.tx (s.cfg.responseByte r), .after r])

end Sys2Proof.Machine
end

