-- ==== Sys2Proof/Machine/Dispatch.lean ====
section
/-! DEFINITION. One arm per row of the opcode table. -/

namespace Sys2Proof.Machine

def exec (i : Instr) (s : State) : Host.Outcome State Fault Refusal :=
  match i with
  | .m payload => Sys2Proof.Machine.execM payload s
  | .n payload => Sys2Proof.Machine.execN payload s
  | .d payload => Sys2Proof.Machine.execD payload s
  | .x payload => Sys2Proof.Machine.execX payload s
  | .unknown op payload => Sys2Proof.Machine.execUnknown op payload s
  | .byteEscaped b => Sys2Proof.Machine.execByteEscaped b s
  | .byteEsc => Sys2Proof.Machine.execByteEsc s
  | .byteStartResync => Sys2Proof.Machine.execByteStartResync s
  | .byteEnd => Sys2Proof.Machine.execByteEnd s
  | .byteContent b => Sys2Proof.Machine.execByteContent b s
  | .hsReq => Sys2Proof.Machine.execHsReq s
  | .hsRsp => Sys2Proof.Machine.execHsRsp s
  | .rsp r => Sys2Proof.Machine.execRsp r s

end Sys2Proof.Machine
end

