-- ==== Sys2Proof/Machine/Environment.lean ====
section
/-! DEFINITION. The moves of the two environment agents (R5): the host's liberties and duties (R300) and power failure
or external reset (R131, R290). -/

namespace Sys2Proof.Machine

/-- R300 duty 4: whether the bytes waiting in the receiver complete a frame that will be dispatched. -/
def framePending : List Byte → State → Bool
  | [], _ => false
  | b :: bs, s =>
    let t := onByte b s
    if t.pos = .dispatch then true else framePending bs t

/-- R300 duty 4: a frame has been dispatched and the response to it has not been sent. -/
def responseOwed (s : State) : Bool :=
  match s.todo with
  | [.after _] => false
  | _ => s.pos ≠ .body

/-- R300 duties 2 and 4: in RECEIVE the host sends nothing before it has read what it was sent, and nothing between the
END of a dispatched frame and the response to it. -/
def hostMaySend (s : State) : Bool :=
  if s.ctl = .receive ∧ s.powered = true then
    !responseOwed s && s.unread = 0 && !framePending s.rxq s
  else true

/-- R40: a byte the host offers waits in the receiver; while that is off it is dropped. Where a duty stands against it the
host has no such move: nothing is offered (R300, U26, U27; log 24). -/
def hostOffer (b : Byte) (s : State) : State :=
  if s.rxEnable = true ∧ hostMaySend s = true then s.setRx true (s.rxq ++ [b]) else s

/-- R300: the host reads the oldest byte it has been sent. -/
def hostRead (s : State) : State := s.setOut s.out (s.unread - 1)

/-- One move of the schedule that is not the block's. -/
def environmentMove (move : Move) (s : State) : State :=
  match move with
  | .run => s
  | .offer b => hostOffer b s
  | .read => hostRead s
  | .powerFail => powerFail s

end Sys2Proof.Machine
end

