-- ==== Sys2Proof/Machine/Tasks.lean ====
section
/-! DEFINITION. One primitive of the sequence in progress (R11, R12). -/

namespace Sys2Proof.Machine

/-- What the bytes of a READ do once the last of them is there. -/
def useRead (use : ReadUse) (bytes : List Byte) (rest : List Task) (s : State) : State :=
  match use with
  | .vector limit => saveVector limit bytes rest s
  | .imageSize => useSize bytes rest s
  | .chunk => storeChunk bytes rest s
  | .signature => s.setTodo (.verify bytes :: rest)

/-- R120: the next byte of a READ is read; the last one hands the bytes on. -/
def readStep (a left : Nat) (got : List Byte) (use : ReadUse) (rest : List Task) (s : State) : State :=
  match left with
  | 0 => useRead use got rest s
  | 1 => useRead use (got ++ [readByte s a]) rest (afterByte s a)
  | more + 2 => (afterByte s a).setTodo (.read (a + 1) (more + 1) (got ++ [readByte s a]) use :: rest)

/-- R41: a Tx starts, or the byte on its way has reached the transport. -/
def txStep (b : Byte) (rest : List Task) (s : State) : State :=
  match s.txFlight with
  | some c => finishTx c (s.setTodo rest)
  | none => startTx b s

/-- R12: one primitive of the first task, with the tasks after it. -/
def taskStep (task : Task) (rest : List Task) (s : State) : Result :=
  match task with
  | .read a left got use => .next (readStep a left got use rest s)
  | .write a bytes => writeStep a bytes rest s
  | .commit => commitStep rest s
  | .erase k => eraseStep k rest s
  | .eraseFrom k n => eraseFromStep k n rest s
  | .tx b => .next (txStep b rest s)
  | .hashInit => .next (startHash rest s)
  | .hashUpdate => .next (updateHash rest s)
  | .hashFinal => .next (finishHash rest s)
  | .verify sig => .next (judgeImage sig rest s)
  | .ret st => .next (returnStatus st (s.setTodo rest))
  | .after r => .next (afterResponse r (s.setTodo rest))
  | .enterReceive => .next (enterReceive (s.setTodo rest))

end Sys2Proof.Machine
end

