-- ==== Sys2Proof/Machine/Fetch.lean ====
section
/-! DEFINITION. What the next step is: a move of the environment, the next primitive of the sequence in progress, an
instruction of the opcode table, or a step of the sequencer's own (R231). -/

namespace Sys2Proof.Machine

/-- The next step of the machine. -/
inductive Turn where
  /-- an instruction runs, at the state the polling of its byte left -/
  | instr (i : Instr) (s : State)
  /-- a step that runs no instruction of the table, and its outcome -/
  | own (o : Host.Outcome State Fault Refusal)

/-- R237, R158: one poll of the receive loop; the byte is decoded by the framer's state. -/
def receiveTurn (s : State) : Turn :=
  match rxPoll s with
  | (none, t) => .own (.next t)
  | (some b, t) => .instr (wireInstr t b) t

/-- R231: the block's next step between two sequences, by its control state and its position in it. -/
def fetchTurn (s : State) : Turn :=
  match s.ctl with
  | .handshakeWait => if s.pos = .entry then .own (.next (enterHandshakeWait s)) else .instr .hsReq s
  | .erase => if s.pos = .reply then .instr .hsRsp s else .own (.next (startEraseState s))
  | .receive =>
    match s.pos with
    | .dispatch => .instr (frameInstr s) s
    | .respond r => .instr (.rsp r) s
    | _ => receiveTurn s
  | .verifyAndBoot =>
    match s.pos with
    | .respond r => .instr (.rsp r) s
    | _ => .own (.next (startVerify s))
  | .doneReset => .own (resetBlock s)
  | .doneJump => .own (.refused .controlTransferred)

/-- R12: the block's next step: without power the reset, in a sequence its next primitive, else what comes next. -/
def blockTurn (s : State) : Turn :=
  if s.powered = true then
    match s.todo with
    | task :: rest => .own (taskStep task rest s)
    | [] => fetchTurn s
  else .own (resetBlock s)

/-- R11, R155, R188: what a command does first is a primitive of its own: it raises a status or resets the device. -/
def endsSession (i : Instr) (s : State) : Bool := i = .x [] || commandStatus i s ≠ .success

/-- R12: the block is in the middle of a step: what it does next uses no primitive of R11 and belongs to the primitive
before it, so no other agent moves (log 8). -/
def State.inStep (s : State) : Bool :=
  s.powered &&
  match s.todo with
  | .ret _ :: _ => true
  | .after r :: _ => r = .ack
  | .enterReceive :: _ => true
  | _ :: _ => false
  | [] =>
    match s.ctl with
    | .erase => true
    | .verifyAndBoot => true
    | .receive =>
      match s.pos with
      | .respond _ => true
      | .dispatch => !endsSession (frameInstr s) s
      | _ => false
    | _ => false

/-- R12, R302, U16: a cycle or a Tx has started and not completed: only a power failure may come before the block
completes it. -/
def State.held (s : State) : Bool := s.nvmBusy ≠ .idle || s.txFlight ≠ none

/-- R5, R12: whether the block moves next, and the schedule it leaves. A schedule that has run out leaves the block running
alone; a move of the host waits until a held block goes on. -/
def State.turn (s : State) : Option (List Move) :=
  if s.inStep then some s.env
  else
    match s.env with
    | [] => some []
    | .run :: e => some e
    | .powerFail :: _ => none
    | _ :: _ => if s.held then some s.env else none

/-- R5: the first move of the schedule, by the environment. -/
def environmentTurn (s : State) : State :=
  match s.env with
  | [] => s
  | move :: e => environmentMove move (s.setEnv e)

/-- R5, R12: who moves next. After TransferControl there is no move (R231, U29). -/
def takeTurn (s : State) : Turn :=
  if s.ctl = .doneJump then .own (.refused .controlTransferred)
  else
    match s.turn with
    | some e => blockTurn (s.setEnv e)
    | none => .own (.next (environmentTurn s))

/-- The block powered, with an empty schedule and no sequence in progress. -/
def atRest (s : State) : State := ((s.setEnv []).setPowered true).setTodo []

/-- The block polling in RECEIVE with an empty schedule and one byte waiting. -/
def placeByte (mode : FramerMode) (idx : Nat) (buf : List Byte) (b : Byte) (s : State) : State :=
  (((atRest s).goto .receive .body).setFramer mode idx buf).setRx true [b]

/-- The block in RECEIVE with an empty schedule and the frame of a command complete in its buffer. -/
def placeFrame (content : List Byte) (s : State) : State :=
  ((atRest s).goto .receive .dispatch).setFramer .normal (1 + content.length)
    (startByte :: content ++ s.buf.drop (1 + content.length))

/-- The state whose very next step runs the instruction of a table word (log 27). -/
def placeWord (bs : List Byte) (s : State) : State :=
  if bs = hsReqBytes then
    (((atRest s).goto .handshakeWait .body).setHandshake 0 s.cfg.handshakeBudget).setRx true bs
  else if bs = hsRspBytes then (atRest s).goto .erase .reply
  else if bs = [escByte] then placeByte .normal s.frIdx s.buf escByte s
  else if bs = [startByte] then placeByte .normal 1 (s.buf.set 0 startByte) startByte s
  else if bs = [endByte] then placeByte .normal s.frIdx (s.buf.set 0 startByte) endByte s
  else
    match bs with
    | [] => s
    | op :: given => placeFrame (op :: padPayload op given) s

end Sys2Proof.Machine
end

