-- ==== Sys2Proof/Machine/Step.lean ====
section
/-! DEFINITION. One step of the machine: the next move of the schedule, the instruction the block runs next, or one of
the sequencer's own sequences. -/

namespace Sys2Proof.Machine

def step (s : State) : Host.Outcome State Fault Refusal :=
  match takeTurn s with
  | .instr i t => exec i t
  | .own o => o

/-- The state with the instruction of a table word where the next step runs it (log 27). -/
def State.withFetchWord (s : State) (nbits w : Nat) : State := placeWord (wordBytes (nbits / 8) w) s

end Sys2Proof.Machine
end

