-- ==== Sys2Proof/WellFormed.lean ====
section
/-! DEFINITION. Which instructions the block can fetch under given parameters: a frame fits the buffer (R152), an
unknown opcode is none of the four (R189), a content byte is never ESC (R156). -/

namespace Sys2Proof

/-- R152: the frame (START, opcode, payload) is short enough to be dispatched. -/
def Params.frameFits (c : Params) (payload : List Byte) : Bool := 2 + payload.length ≤ c.maxFrame

/-- R94: one of the four legal opcodes. -/
def isCommandOp (op : Byte) : Bool := op = opM || op = opN || op = opD || op = opX

def Instr.wellFormed (c : Params) : Instr → Bool
  | .m p           => c.frameFits p
  | .n p           => c.frameFits p
  | .d p           => c.frameFits p
  | .x p           => c.frameFits p
  | .unknown op p  => c.frameFits p && !isCommandOp op
  | .byteEscaped _ => true
  | .byteEsc       => true
  | .byteStartResync => true
  | .byteEnd       => true
  | .byteContent b => b ≠ escByte
  | .hsReq         => true
  | .hsRsp         => true
  | .rsp _         => true

/-- R99, D21: the five response bytes are pairwise distinct. The spec does not say so; a claim that needs it takes it as a
premise. -/
def Params.responsesDistinct (c : Params) : Bool :=
  [c.rspAck, c.rspInvalid, c.rspDenied, c.rspSigValid, c.rspSigInvalid].Nodup

end Sys2Proof
end

