-- ==== Sys2Proof/Safety.lean ====
section
/-! DEFINITION. The vocabulary of the claims: how a sequence of primitives runs to its end, what a run is observed by
(R293), what every step keeps, which addresses a sequence may still change, the image the digest is taken of. -/

namespace Sys2Proof.Machine

/-! ### The array -/

/-- R120: the bytes of the array from an address on. -/
def Memory.bytes (m : Memory) (a n : Nat) : List Byte := (List.range n).map fun i => m.read (a + i)

/-- R129: the reset vector `mem[0..4)`. -/
def resetVector (m : Memory) : List Byte := m.bytes 0 vecLen

/-- R129: the backup slot `mem[64..68)`. -/
def backupSlot (m : Memory) : List Byte := m.bytes backupAddr vecLen

/-! ### Sequences -/

/-- R29, R30, R41: no byte is latched, no cycle is in progress, no byte is on its way. -/
abbrev State.Quiet (s : State) : Prop :=
  s.latchBlk = none ∧ s.latchMap = [] ∧ s.nvmBusy = .idle ∧ s.txFlight = none

/-- The state between two sequences. -/
abbrev State.Settled (s : State) : Prop := s.Quiet ∧ s.todo = []

/-- The block runs alone: it is powered and the schedule holds no move of another agent. -/
abbrev State.Alone (s : State) : Prop := s.powered = true ∧ s.env = []

/-- `n` steps, ending at the first that gives no next state. -/
def runSteps : Nat → State → Host.Outcome State Fault Refusal
  | 0, s => .next s
  | n + 1, s =>
    match step s with
    | .next t => runSteps n t
    | .fault f => .fault f
    | .refused r => .refused r

/-- At most `n` steps, ending where the sequence in progress does: with its last operation, or when power fails. -/
def runSequence : Nat → State → Host.Outcome State Fault Refusal
  | 0, s => .next s
  | n + 1, s =>
    if s.todo = [] then .next s
    else
      match step s with
      | .next t => runSequence n t
      | .fault f => .fault f
      | .refused r => .refused r

/-- The sequence in progress in `s` comes to its end in `t`. -/
def State.Finishes (s t : State) : Prop := ∃ n, runSequence n s = .next t ∧ t.todo = []

/-! ### Which addresses a sequence may still change -/

/-- The addresses an operation may change (R122, R127, R128). -/
def Task.target : Task → Nat → Bool
  | .write a v, x => decide (a ≤ x) && decide (x < a + v.length)
  | .erase k, x => x / 64 = k
  | .eraseFrom k n, x => decide (k ≤ x / 64) && decide (x / 64 < k + n)
  | .read _ _ _ (.vector limit), x => x / 64 = 1 || decide (x / 64 < limit / 64)
  | _, _ => false

/-- The address may be changed by the sequence in progress: by a byte in the latch, the cycle that runs, or an operation
still to come. -/
def State.pending (s : State) (x : Nat) : Bool :=
  s.todo.any (fun task => task.target x) || decide (x ∈ latchAddrs s) || decide (x ∈ exposedAddrs s)

/-! ### What every step keeps -/

/-- R22, R231: what may come next in a control state. -/
def legalPos : Ctl → Pos → Bool
  | .handshakeWait, .entry => true
  | .handshakeWait, .body => true
  | .erase, .body => true
  | .erase, .reply => true
  | .receive, .body => true
  | .receive, .dispatch => true
  | .receive, .respond r => r = .ack || r = .invalid || r = .denied
  | .verifyAndBoot, .body => true
  | .verifyAndBoot, .respond r => r = .sigValid || r = .sigInvalid
  | .doneReset, .body => true
  | .doneJump, .body => true
  | _, _ => false

/-- How many bytes a READ is for. -/
def ReadUse.size : ReadUse → Nat
  | .vector _ => vecLen
  | .imageSize => sizeLen
  | .chunk => blockSize
  | .signature => sigLen

/-- An operation that has something left to do. -/
def Task.ok : Task → Bool
  | .read _ left got use => decide (0 < left) && decide (got.length + left = use.size)
  | .write _ v => v ≠ []
  | .eraseFrom _ n => decide (0 < n)
  | _ => true

/-- An operation of WRITE. -/
def Task.writes : Task → Bool
  | .write _ _ => true
  | .commit => true
  | _ => false

/-- An operation of WRITE or ERASE_RANGE. -/
def Task.stores : Task → Bool
  | .erase _ => true
  | .eraseFrom _ _ => true
  | task => task.writes

def Task.sends : Task → Bool
  | .tx _ => true
  | _ => false

/-- A sequence of some operations and a last one. -/
def endsWith (last : Task) (p : Task → Bool) (ts : List Task) : Bool := ts.getLast? = some last && ts.dropLast.all p

/-- R128 step 1 in progress. -/
def readsVector (c : Params) : List Task → Bool
  | [.read a left _ (.vector limit)] => a + left = vecLen && limit = c.btldOffset
  | _ => false

/-- R210, R211, R215: an operation of VerifyImage in progress. -/
def verifiesImage : List Task → Bool
  | [.read _ _ _ use] => use = .imageSize || use = .chunk || use = .signature
  | [.hashInit] => true
  | [.hashUpdate] => true
  | [.hashFinal] => true
  | [.verify _] => true
  | _ => false

/-- R22: the sequences that belong to a control state and position. -/
def legalTodo (c : Params) : Ctl → Pos → List Task → Bool
  | _, _, [] => true
  | .erase, .reply, ts => readsVector c ts || ts.all Task.stores || endsWith .enterReceive Task.sends ts
  | .receive, .dispatch, ts => endsWith (.ret .success) Task.writes ts
  | .receive, .respond r, ts => ts = [.tx (c.responseByte r), .after r] || ts = [.after r]
  | .verifyAndBoot, .respond r, ts => ts = [.tx (c.responseByte r), .after r] || ts = [.after r]
  | .verifyAndBoot, .body, ts => verifiesImage ts
  | _, _, _ => false

/-- R29, R30, R122: what the latch, the array and the transport hold while the first operation of the sequence waits for
its next primitive. A Commit stands only at the front. -/
def State.frontOk (s : State) : Bool :=
  s.todo.all Task.ok && s.todo.tail.all (fun task => task ≠ .commit) &&
  match s.todo with
  | .write a _ :: _ =>
    s.nvmBusy = .idle && s.txFlight = none &&
      (s.latchBlk = none || (s.latchBlk = some (a / 64) && s.latchMap.all fun cell => decide (cell.1 < a % 64)))
  | .commit :: _ => (s.nvmBusy = .idle || s.nvmBusy = .program) && s.txFlight = none && s.latchBlk ≠ none
  | .erase k :: _ => (s.nvmBusy = .idle || s.nvmBusy = .erase k) && s.txFlight = none && s.latchBlk = none
  | .tx b :: _ => s.nvmBusy = .idle && (s.txFlight = none || s.txFlight = some b) && s.latchBlk = none
  | _ => s.nvmBusy = .idle && s.txFlight = none && s.latchBlk = none

/-- R29: the latch holds bytes of one block of the array. -/
def State.latchOk (s : State) : Bool :=
  match s.latchBlk with
  | none => s.latchMap = []
  | some k =>
    decide (k < s.cfg.flashSize / 64) && cellsSorted s.latchMap && s.latchMap.all fun cell => decide (cell.1 < 64)

/-- R30: the block under erase exists. -/
def State.cycleOk (s : State) : Bool :=
  match s.nvmBusy with
  | .erase k => decide (k < s.cfg.flashSize / 64)
  | _ => true

/-- R27: the range of the frame index. -/
def frameIndexOk (c : Params) (idx : Nat) : Bool :=
  match c.framerWrap with
  | .afterStore  => decide (idx < c.frameBufSize)
  | .beforeStore => decide (idx ≤ c.frameBufSize)

/-- An operation that changes no address at or beyond `n`. -/
def Task.below (n : Nat) : Task → Bool
  | .write a v => decide (a + v.length ≤ n)
  | .erase k => decide (64 * k + 64 ≤ n)
  | .eraseFrom k m => decide (64 * (k + m) ≤ n)
  | _ => true

/-- R65: the sequence in progress changes no address at or beyond `n`. -/
def State.staysBelow (s : State) (n : Nat) : Bool :=
  s.todo.all (Task.below n) && (latchAddrs s).all (fun x => decide (x < n)) &&
  match s.nvmBusy with
  | .erase k => decide (64 * k + 64 ≤ n)
  | _ => true

/-- What every step keeps: the array's canonical form and address range, the ranges of R20 to R33, a sequence that
belongs to the control state, a storage controller in step with it, and under `EXACT` (D18) no operation to come on the
bootloader's code. -/
abbrev State.Inv (s : State) : Prop :=
  s.cfg.Wf ∧ s.mem.wf = true ∧ s.mem.inRange s.cfg.flashSize = true ∧
  legalPos s.ctl s.pos = true ∧ legalTodo s.cfg s.ctl s.pos s.todo = true ∧
  s.frontOk = true ∧ s.latchOk = true ∧ s.cycleOk = true ∧
  s.buf.length = s.cfg.frameBufSize ∧ frameIndexOk s.cfg s.frIdx = true ∧ (s.pos = .dispatch → 2 ≤ s.frIdx) ∧
  s.hsMatched ≤ 5 ∧ s.hsBudget ≤ s.cfg.handshakeBudget ∧
  s.sv.length = vecLen ∧ s.chunk.length = blockSize ∧ s.digest.length = 32 ∧ s.dgN < 2 ^ 24 ∧
  s.dgCtx.pending.length < blockSize ∧ (s.rxEnable = false → s.rxq = []) ∧
  (s.cfg.addrSumMode = .exact → s.staysBelow s.cfg.btldOffset = true)

/-- R231: the transitions of the control state; a state may be kept, and DONE_RESET ends in the reset. -/
def transitionOk : Ctl → Ctl → Bool
  | .handshakeWait, .handshakeWait => true
  | .handshakeWait, .verifyAndBoot => true
  | .handshakeWait, .erase => true
  | .erase, .erase => true
  | .erase, .receive => true
  | .receive, .receive => true
  | .receive, .doneReset => true
  | .verifyAndBoot, .verifyAndBoot => true
  | .verifyAndBoot, .doneJump => true
  | .verifyAndBoot, .doneReset => true
  | .doneReset, .doneReset => true
  | .doneReset, .handshakeWait => true
  | _, _ => false

/-! ### The reset vector through ERASE_RANGE -/

/-- R129: `V` stands at address 0. -/
abbrev State.VectorAt0 (s : State) : Prop := resetVector s.mem = s.cfg.vec0

/-- R129: `V` stands in the backup slot. -/
abbrev State.VectorIn64 (s : State) : Prop := backupSlot s.mem = s.cfg.vec0

/-- The first `n` bytes of `V` are in the latch, for the start of block `k`, whose first bytes are erased. -/
def State.Restoring (s : State) (k n : Nat) : Prop :=
  s.latchMap = (List.range n).map (fun i => (i, s.cfg.vec0.getD i 0#8)) ∧
  (n ≠ 0 → s.latchBlk = some k) ∧ ∀ i, i < vecLen → s.mem.read (64 * k + i) = erasedByte

/-- R128, R129: where `V` stands at each point of the ERASE state, by the operations still to come. -/
def State.EraseStage (s : State) : Prop :=
  let n := s.cfg.btldOffset / 64
  match s.todo with
  | .read a _ got _ :: _ => s.VectorAt0 ∧ got = s.cfg.vec0.take a
  | .erase k :: .write a w :: more =>
    w = s.cfg.vec0 ∧ s.sv = s.cfg.vec0 ∧ a = 64 * k ∧
      (k = 1 ∧ s.VectorAt0 ∧ more = eraseTasks 0 n ∨ k = 0 ∧ s.VectorIn64 ∧ more = eraseTasks 1 (n - 1))
  | .erase k :: more => 0 < k ∧ s.VectorAt0 ∧ more = eraseTasks (k + 1) (n - (k + 1))
  | .write a w :: more =>
    s.sv = s.cfg.vec0 ∧
      (∃ i, i < vecLen ∧ w = s.cfg.vec0.drop i ∧
        (a = 64 + i ∧ s.Restoring 1 i ∧ s.VectorAt0 ∧ more = eraseTasks 0 n ∨
          a = i ∧ s.Restoring 0 i ∧ s.VectorIn64 ∧ more = eraseTasks 1 (n - 1)))
  | .commit :: more =>
    s.sv = s.cfg.vec0 ∧
      (s.Restoring 1 vecLen ∧ s.VectorAt0 ∧ more = eraseTasks 0 n ∨
        s.Restoring 0 vecLen ∧ s.VectorIn64 ∧ more = eraseTasks 1 (n - 1))
  | .eraseFrom k m :: more =>
    s.VectorAt0 ∧ k + m = n ∧ more = [] ∧ (k = 0 → s.sv = s.cfg.vec0 ∧ s.VectorIn64)
  | _ => s.VectorAt0

/-- R129, R294: a block that has passed its reset has `V` at address 0 while it waits for the handshake, and in ERASE
where `EraseStage` says. -/
def State.VectorKept (s : State) : Prop :=
  s.powered = true → (s.ctl = .handshakeWait → s.VectorAt0) ∧ (s.ctl = .erase → s.EraseStage)

/-! ### The image and a boot's observation -/

/-- R214: byte `i` of the canonical image. -/
def canonByte (m : Memory) (i : Nat) : Byte :=
  if i < 4 then m.read (i + 4) else if i < 8 then blankByte else m.read i

/-- R214 `Canon(mem)[0 .. n)`. -/
def canonImage (m : Memory) (n : Nat) : List Byte := (List.range n).map (canonByte m)

/-- R97: the image size its field holds. -/
def imageSize (s : State) : Nat :=
  be24 (s.mem.read s.cfg.codeSizeOffset) (s.mem.read (s.cfg.codeSizeOffset + 1)) (s.mem.read (s.cfg.codeSizeOffset + 2))

/-- R97: the bytes of the signature field. -/
def storedSignature (s : State) : List Byte := s.mem.bytes s.cfg.signatOffset sigLen

/-- R293: the outputs of this boot. -/
def State.bootOutputs (s : State) : List Output := s.out.drop s.bootFrom

/-- R293 (i): the bytes this boot has sent to the host, in order. -/
def State.bootBytes (s : State) : List Byte :=
  s.bootOutputs.filterMap fun o =>
    match o with
    | .byte b => some b
    | _ => none

/-- R66, R294: the block right after a reset of a launch state with some parameters and array contents. -/
def State.launch (c : Params) (m : Memory) : State := volatileReset { State.reset with cfg := c, mem := m, draws := 0 }

end Sys2Proof.Machine
end

