-- ==== Sys2Proof/Certificates/Slice0/Obligations.lean ====
section
/-! DEFINITION. The statements for the provers, in the order of the spec's files. A statement about an instruction gives
whole states, so that it says what the instruction leaves unchanged too: the next state of `exec`, and, where the effect
takes several primitives, the state in which that sequence `Finishes`. "Alone" says that no power failure and no move of
the host comes in between. D<n> is a decision of 92_eei_decisions.md, the spec's own choice where its source is silent: a
statement that rests on one is marked derived. -/

open Sys2Proof Sys2Proof.Machine

/-! ### Encodings (30_encoding.md) -/

/-- A few words and frames written out from R91, R94 and R98 (their ASCII values: G1) decode to the rows they stand
for. -/
def Obligations.SampleEncodingsDecode : Prop :=
  decodeTableWord 8 0x4D = some (.m [0x00#8, 0x00#8, 0x00#8]) ∧
  decodeTableWord 8 0x58 = some (.x []) ∧
  decodeTableWord 8 0x51 = some (.unknown 0x51#8 []) ∧
  decodeTableWord 8 0x5C = some .byteEsc ∧
  decodeTableWord 40 0x0A4C544240 = some .hsReq ∧
  decodeTableWord 32 0x0A4B4F40 = some .hsRsp ∧
  ∀ c, decode c .frame [0x40#8, 0x44#8, 0x03#8, 0x00#8, 0x02#8, 0x00#8, 0x5C#8, 0x5C#8, 0x5C#8, 0x40#8, 0x5C#8, 0x0A#8,
      0x0A#8] = .ok (.d [0x03#8, 0x00#8, 0x02#8, 0x00#8, 0x5C#8, 0x40#8, 0x0A#8]) []

/-- R92 to R99, for every instruction and every operand its encoding admits: decoding an encoded instruction gives it
back and leaves the bytes after it. The response bytes are OPEN and the spec does not say that they differ (D21): that
they do is a premise. -/
def Obligations.EncodedInstructionsDecode : Prop :=
  ∀ (c : Params) (i : Instr) (rest : List Byte), i.wellFormed c = true → c.responsesDistinct = true →
    decode c i.context (encode c i ++ rest) = .ok i rest

/-- R157: whatever row a received byte is, running that row has the effect of `OnByte`. -/
def Obligations.WireRowsAreOnByte : Prop :=
  ∀ (b : Byte) (s : State), exec (wireInstr s b) s = .next (onByte b s)

/-! ### The framer (41_framer.md) -/

/-- R150, R152: an escaped byte is stored whatever it is and the mode is NORMAL again. When the index wraps is D14. -/
def Obligations.EscapedByteIsStored : Prop :=
  ∀ (b : Byte) (s : State),
    (s.frMode = .escaped → wireInstr s b = .byteEscaped b) ∧
    (s.cfg.framerWrap = .afterStore →
      exec (.byteEscaped b) s = .next { s with
        frMode := .normal
        frIdx := if s.frIdx + 1 = s.cfg.frameBufSize then 0 else s.frIdx + 1
        buf := s.buf.set s.frIdx b }) ∧
    (s.cfg.framerWrap = .beforeStore →
      exec (.byteEscaped b) s = .next { s with
        frMode := .normal
        frIdx := (if s.frIdx = s.cfg.frameBufSize then 0 else s.frIdx) + 1
        buf := s.buf.set (if s.frIdx = s.cfg.frameBufSize then 0 else s.frIdx) b })

/-- R151: ESC is consumed and not stored; the framer becomes ESCAPED. -/
def Obligations.EscapeByteIsConsumed : Prop :=
  ∀ s : State, (s.frMode = .normal → wireInstr s escByte = .byteEsc) ∧
    exec .byteEsc s = .next { s with frMode := .escaped }

/-- R153: START inside a frame discards the partial frame and leaves the bytes after position 0 in the buffer; at index 0
START is an ordinary byte, with the same effect. -/
def Obligations.StartResynchronises : Prop :=
  ∀ s : State, (s.frMode = .normal → 0 < s.frIdx → wireInstr s startByte = .byteStartResync) ∧
    exec .byteStartResync s = .next { s with frIdx := 1, buf := s.buf.set 0 startByte } ∧
    (s.frMode = .normal → s.frIdx = 0 → 2 ≤ s.cfg.frameBufSize →
      wireInstr s startByte = .byteContent startByte ∧
        exec (.byteContent startByte) s = .next { s with frIdx := 1, buf := s.buf.set 0 startByte })

/-- R154: END while `buf[0] = START` hands a frame with an opcode on and leaves a shorter one alone (D12, D13). -/
def Obligations.EndDispatchesFrame : Prop :=
  ∀ s : State,
    (s.frMode = .normal → s.buf.getD 0 0#8 = startByte → wireInstr s endByte = .byteEnd) ∧
    (2 ≤ s.frIdx → exec .byteEnd s = .next { s with pos := .dispatch }) ∧
    (s.frIdx < 2 → exec .byteEnd s = .next s)

/-- R156, R152: every other byte is stored. When the index wraps is D14. -/
def Obligations.ContentByteIsStored : Prop :=
  ∀ (b : Byte) (s : State),
    (s.frMode = .normal →
      (b ≠ escByte ∧ b ≠ startByte ∧ b ≠ endByte ∨ b = startByte ∧ s.frIdx = 0 ∨
        b = endByte ∧ s.buf.getD 0 0#8 ≠ startByte) →
      wireInstr s b = .byteContent b) ∧
    (s.cfg.framerWrap = .afterStore →
      exec (.byteContent b) s = .next { s with
        frIdx := if s.frIdx + 1 = s.cfg.frameBufSize then 0 else s.frIdx + 1
        buf := s.buf.set s.frIdx b }) ∧
    (s.cfg.framerWrap = .beforeStore →
      exec (.byteContent b) s = .next { s with
        frIdx := (if s.frIdx = s.cfg.frameBufSize then 0 else s.frIdx) + 1
        buf := s.buf.set (if s.frIdx = s.cfg.frameBufSize then 0 else s.frIdx) b })

/-- R159: a well-formed wire frame that fits the buffer, received in RECEIVE from mode NORMAL, whatever the index and
the buffer held, ends with the frame in the buffer and its command next, escaped markers as content. -/
def Obligations.EscapedFrameIsReceived : Prop :=
  ∀ (s : State) (op : Byte) (p q : List Byte), s.Alone → s.todo = [] → s.ctl = .receive → s.pos = .body →
    s.frMode = .normal → s.rxEnable = true → s.rxq = wireFrame op p ++ q → s.buf.length = s.cfg.frameBufSize →
    2 ≤ s.cfg.frameBufSize → s.cfg.frameFits p = true →
    ∃ t, runSteps (wireFrame op p).length s = .next t ∧ t.pos = .dispatch ∧ t.frIdx = 2 + p.length ∧
      t.buf.take (2 + p.length) = startByte :: op :: p ∧ t.rxq = q ∧ t.mem = s.mem ∧ t.out = s.out ∧
      frameInstr t = decodeCommand op p

/-! ### The storage controller (40_storage.md) -/

/-- R120, R121: a READ inside the array takes one step per byte, and the last one hands the bytes on; at or beyond
FLASH_SIZE a byte is a draw (D10). -/
def Obligations.ReadTakesAStepPerByte : Prop :=
  ∀ (s : State) (a n : Nat) (got : List Byte) (use : ReadUse) (rest : List Task), s.Alone → s.ctl ≠ .doneJump → 0 < n →
    s.todo = .read a n got use :: rest →
    (a + n ≤ s.cfg.flashSize → runSteps n s = .next (useRead use (got ++ s.mem.bytes a n) rest s)) ∧
    (2 ≤ n → s.cfg.flashSize ≤ a → step s = .next { s with
      draws := s.draws + 1, todo := .read (a + 1) (n - 1) (got ++ [Config.draw s.draws]) use :: rest })

/-- R122, R123: the next byte of a WRITE enters the latch, and a Commit follows the last byte and the last byte of a block;
out of range and for another block there is a fault (D10, D40). -/
def Obligations.WriteLoadsItsNextByte : Prop :=
  ∀ (a : Nat) (v : Byte) (later : List Byte) (rest : List Task) (s : State), s.Alone → s.ctl ≠ .doneJump →
    s.todo = .write a (v :: later) :: rest →
    (s.cfg.flashSize ≤ a → step s = .fault .programOutOfRange) ∧
    (∀ k, a < s.cfg.flashSize → s.latchBlk = some k → k ≠ a / 64 → step s = .fault .latchBlockMismatch) ∧
    (a < s.cfg.flashSize → s.latchBlk = none ∨ s.latchBlk = some (a / 64) →
      step s = .next { s with
        latchBlk := some (a / 64), latchMap := setCell (a % 64) v s.latchMap
        todo :=
          if later = [] then .commit :: rest
          else if (a + 1) % 64 = 0 then .commit :: .write (a + 1) later :: rest
          else .write (a + 1) later :: rest })

/-- R124, R125: a Commit starts a cycle and, when it completes, has programmed the loaded bytes, those alone (D40), and
emptied the latch. -/
def Obligations.CommitProgramsLatchedBytes : Prop :=
  ∀ (s : State) (k : Nat) (rest : List Task), s.Alone → s.ctl ≠ .doneJump →
    s.todo = .commit :: rest → s.latchBlk = some k → cellsSorted s.latchMap = true →
    (s.nvmBusy = .idle → step s = .next { s with nvmBusy := .program }) ∧
    (s.nvmBusy = .program →
      ∃ m, step s = .next { s with mem := m, latchBlk := none, latchMap := [], nvmBusy := .idle, todo := rest } ∧
        (∀ o v, (o, v) ∈ s.latchMap → m.read (64 * k + o) = programByte s.cfg (s.mem.read (64 * k + o)) v) ∧
        (∀ x, (∀ o v, (o, v) ∈ s.latchMap → x ≠ 64 * k + o) → m.read x = s.mem.read x))

/-- R125: what a program cycle does to a byte under either model, and that they agree on an erased byte (D5, D6). -/
def Obligations.ProgramModels : Prop :=
  ∀ (c : Params) (old v : Byte),
    (c.programModel = .overwrite → programByte c old v = v) ∧
    (c.programModel = .and → programByte c old v = old &&& v) ∧
    programByte c erasedByte v = v

/-- R126, R127: an erase starts a cycle and, when it completes, has set its block to the erased byte (D5) and left every
other byte; out of range it is a fault (D10). -/
def Obligations.EraseSetsOneBlock : Prop :=
  ∀ (k : Nat) (s : State) (rest : List Task), s.Alone → s.ctl ≠ .doneJump → s.todo = .erase k :: rest →
    (s.nvmBusy = .idle → s.cfg.flashSize / 64 ≤ k → step s = .fault .eraseOutOfRange) ∧
    (s.nvmBusy = .idle → k < s.cfg.flashSize / 64 → step s = .next { s with nvmBusy := .erase k }) ∧
    (s.nvmBusy = .erase k →
      ∃ m, step s = .next { s with mem := m, nvmBusy := .idle, todo := rest } ∧
        ∀ x, m.read x = if x / 64 = k then erasedByte else s.mem.read x)

/-- R132: what READ gives after WRITE of the same range, under either program model (D6), and that WRITE changes
nothing else. -/
def Obligations.ReadBackAfterWrite : Prop :=
  ∀ (s : State) (a : Nat) (v : List Byte), s.Alone → s.ctl ≠ .doneJump → s.Quiet →
    s.todo = writeTasks a v → a + v.length ≤ s.cfg.flashSize →
    ∃ m, s.Finishes { s with mem := m, todo := [] } ∧
      (s.cfg.programModel = .overwrite → m.bytes a v.length = v) ∧
      (s.cfg.programModel = .and → m.bytes a v.length = List.zipWith (· &&& ·) (s.mem.bytes a v.length) v) ∧
      ∀ x, x < a ∨ a + v.length ≤ x → m.read x = s.mem.read x

/-- R130 (derived in the spec from R128, D8, D9): after ERASE_RANGE to a block-aligned limit the vector is as before,
the rest below the limit is erased, everything from the limit on is unchanged. -/
def Obligations.EraseRangeKeepsVector : Prop :=
  ∀ (s : State) (limit : Nat), s.Alone → s.ctl ≠ .doneJump → s.Quiet →
    s.todo = eraseRangeTasks limit → limit % 64 = 0 → 128 ≤ limit → limit ≤ s.cfg.flashSize →
    ∃ m, s.Finishes { s with mem := m, sv := resetVector s.mem, todo := [] } ∧
      ∀ x, m.read x = if x < 4 then s.mem.read x else if x < limit then erasedByte else s.mem.read x

/-- R129 (derived in the spec from R128 and R131, D7), as what every step keeps: from the handshake on through the whole
of ERASE the reset vector stands where `EraseStage` says; so every step of ERASE, a power failure inside a cycle included,
leaves a copy of it at address 0 or in the backup slot. -/
def Obligations.PowerFailureLeavesVectorCopy : Prop :=
  ∀ s t : State, s.Inv → s.VectorKept → step s = .next t →
    t.VectorKept ∧ (s.powered = true → s.ctl = .erase → t.VectorAt0 ∨ t.VectorIn64)

/-- R131 (D7): what a power failure leaves: the exposed bytes are draws, all others are kept, the block is off and a
next step resets it; it can come between any two primitives of the block, so inside a cycle too. -/
def Obligations.PowerFailureEffects : Prop :=
  ∀ s : State,
    (s.nvmBusy = .idle → (powerFail s).mem = s.mem) ∧
    (∀ k, s.nvmBusy = .program → s.latchBlk = some k →
      ∀ x, (∀ o v, (o, v) ∈ s.latchMap → x ≠ 64 * k + o) → (powerFail s).mem.read x = s.mem.read x) ∧
    (∀ k, s.nvmBusy = .erase k → ∀ x, x / 64 ≠ k → (powerFail s).mem.read x = s.mem.read x) ∧
    (∀ x, x ∈ exposedAddrs s → ∃ n, (powerFail s).mem.read x = Config.draw n) ∧
    (powerFail s).Settled ∧ (powerFail s).powered = false ∧ (powerFail s).rxEnable = false ∧ (powerFail s).rxq = [] ∧
    (∀ e, s.ctl ≠ .doneJump → s.inStep = false → s.env = .powerFail :: e →
      step s = .next (powerFail { s with env := e }))

/-- R12, R30, R124, R127: the step in a cycle is its completion, at the block's own turn, while a move of the host waits, or
a power failure; nothing else comes in between. -/
def Obligations.CycleHolds : Prop :=
  ∀ s t : State, s.Inv → s.powered = true → s.nvmBusy ≠ .idle → step s = .next t →
    if s.env.head? = some .powerFail then
      t.env = s.env.tail ∧ t.powered = false ∧ t.nvmBusy = .idle ∧ t.todo = []
    else
      t.env = (if s.env.head? = some .run then s.env.tail else s.env) ∧ t.powered = true ∧ t.nvmBusy = .idle ∧
        t.todo = s.todo.tail

/-! ### The commands (42_session.md) -/

/-- R181 (D16): the payload byte of a fetched frame is the buffer's byte, past the buffer a draw, whether or not it lies
inside the frame. -/
def Obligations.PayloadBytesComeFromBuffer : Prop :=
  ∀ (s : State) (i : Nat), s.buf.length = s.cfg.frameBufSize → s.frIdx ≤ s.cfg.frameBufSize →
    payloadByte ((s.buf.take s.frIdx).drop 2) s i =
      if 2 + i < s.cfg.frameBufSize then s.buf.getD (2 + i) 0#8 else Config.draw (s.draws + i)

/-- R182: `M` hands its three bytes to a WRITE at the size field, which programs them there, and returns Success; any other
length is InvalidPayload. -/
def Obligations.SizeCommand : Prop :=
  (∀ (p : List Byte) (s : State), s.cfg.Wf → s.Alone → s.ctl ≠ .doneJump → s.Settled → p.length = 3 →
    exec (.m p) s = .next { s with todo := [.write s.cfg.codeSizeOffset p, .ret .success] } ∧
    ∃ m, State.Finishes { s with todo := [.write s.cfg.codeSizeOffset p, .ret .success] }
        { s with mem := m, st := .success, pos := .respond .ack } ∧
      ∀ x, m.read x =
        if s.cfg.codeSizeOffset ≤ x ∧ x < s.cfg.codeSizeOffset + 3 then
          programByte s.cfg (s.mem.read x) (p.getD (x - s.cfg.codeSizeOffset) 0#8)
        else s.mem.read x) ∧
  (∀ (p : List Byte) (s : State), p.length ≠ 3 →
    exec (.m p) s = .next { s with st := .invalidPayload, pos := .respond .invalid })

/-- R183: `N` hands its 64 bytes to a WRITE at the signature field, which programs them there, and returns Success; any
other length is InvalidPayload. -/
def Obligations.SignatureCommand : Prop :=
  (∀ (p : List Byte) (s : State), s.cfg.Wf → s.Alone → s.ctl ≠ .doneJump → s.Settled → p.length = 64 →
    exec (.n p) s = .next { s with todo := [.write s.cfg.signatOffset p, .ret .success] } ∧
    ∃ m, State.Finishes { s with todo := [.write s.cfg.signatOffset p, .ret .success] }
        { s with mem := m, st := .success, pos := .respond .ack } ∧
      ∀ x, m.read x =
        if s.cfg.signatOffset ≤ x ∧ x < s.cfg.signatOffset + 64 then
          programByte s.cfg (s.mem.read x) (p.getD (x - s.cfg.signatOffset) 0#8)
        else s.mem.read x) ∧
  (∀ (p : List Byte) (s : State), p.length ≠ 64 →
    exec (.n p) s = .next { s with st := .invalidPayload, pos := .respond .invalid })

/-- R184, R185, R264: a `D` too short is InvalidPayload; one long enough whose `addr + size` reaches SIGNAT_OFFSET is
DeniedAddress, under either sum (D18); neither writes. -/
def Obligations.DataCommandRejected : Prop :=
  (∀ (p : List Byte) (s : State), p.length < 5 →
    exec (.d p) s = .next { s with st := .invalidPayload, pos := .respond .invalid }) ∧
  (∀ (size a2 a1 a0 : Byte) (data : List Byte) (s : State), data ≠ [] →
    (s.cfg.addrSumMode = .exact ∧ s.cfg.signatOffset ≤ be24 a2 a1 a0 + size.toNat ∨
      s.cfg.addrSumMode = .mod24 ∧ s.cfg.signatOffset ≤ (be24 a2 a1 a0 + size.toNat) % 2 ^ 24) →
    exec (.d (size :: a2 :: a1 :: a0 :: data)) s =
      .next { s with st := .deniedAddress, pos := .respond .denied })

/-- R186 (D17): a `D` at address 0 programs payload byte `x` at address `x`, for `x` in `[4, 8)` and, when the size is
above 8, in `[8, size + 4)`; nothing else, so never `[0, 4)`. `d` counts the draws the payload reads took (log 12). -/
def Obligations.DataCommandAtZero : Prop :=
  ∀ (size : Byte) (data : List Byte) (s : State), s.cfg.Wf → s.Alone → s.ctl ≠ .doneJump →
    s.Settled → data ≠ [] → size.toNat < s.cfg.signatOffset →
    ∃ t m d, exec (.d (size :: 0#8 :: 0#8 :: 0#8 :: data)) s = .next t ∧
      t.Finishes { s with mem := m, draws := d, st := .success, pos := .respond .ack } ∧
      (∃ ts, t = { s with draws := d, todo := ts }) ∧
      ∀ x, m.read x =
        if 4 ≤ x ∧ x < 8 ∨ 8 < size.toNat ∧ 8 ≤ x ∧ x < size.toNat + 4 then
          programByte s.cfg (s.mem.read x) (payloadByte (size :: 0#8 :: 0#8 :: 0#8 :: data) s x)
        else s.mem.read x

/-- R187: a `D` at another address programs its `size` data bytes there and nothing else. Under `EXACT` the check bounds
the range; under `MOD24` (D18) that it lies in the array is a premise. `d` counts the draws the payload reads took
(log 12). -/
def Obligations.DataCommandElsewhere : Prop :=
  ∀ (size a2 a1 a0 : Byte) (data : List Byte) (s : State), s.cfg.Wf → s.Alone → s.ctl ≠ .doneJump →
    s.Settled → data ≠ [] →
    be24 a2 a1 a0 ≠ 0 → dSum s.cfg (be24 a2 a1 a0) size.toNat < s.cfg.signatOffset →
    (s.cfg.addrSumMode = .exact ∨ be24 a2 a1 a0 + size.toNat ≤ s.cfg.flashSize) →
    ∃ t m d, exec (.d (size :: a2 :: a1 :: a0 :: data)) s = .next t ∧
      t.Finishes { s with mem := m, draws := d, st := .success, pos := .respond .ack } ∧
      (∃ ts, t = { s with draws := d, todo := ts }) ∧
      ∀ x, m.read x =
        if be24 a2 a1 a0 ≤ x ∧ x < be24 a2 a1 a0 + size.toNat then
          programByte s.cfg (s.mem.read x)
            (payloadByte (size :: a2 :: a1 :: a0 :: data) s (4 + (x - be24 a2 a1 a0)))
        else s.mem.read x

/-- R122, R185, R123, R265 (D10, D18): a `D` that passes the check because its sum wrapped, and reaches past the array,
faults at its first byte there; what it wrote to the array before, whole blocks, stays committed. -/
def Obligations.WrappedDataCommandFaults : Prop :=
  ∀ (size a2 a1 a0 : Byte) (data : List Byte) (s : State), s.cfg.Wf → s.Alone → s.ctl ≠ .doneJump →
    s.Settled → data ≠ [] →
    be24 a2 a1 a0 ≠ 0 → dSum s.cfg (be24 a2 a1 a0) size.toNat < s.cfg.signatOffset →
    s.cfg.flashSize < be24 a2 a1 a0 + size.toNat →
    ∃ t n u, exec (.d (size :: a2 :: a1 :: a0 :: data)) s = .next t ∧ runSequence n t = .next u ∧
      step u = .fault .programOutOfRange ∧ u.Quiet ∧
      ∀ x, u.mem.read x =
        if be24 a2 a1 a0 ≤ x ∧ x < s.cfg.flashSize then
          programByte s.cfg (s.mem.read x)
            (payloadByte (size :: a2 :: a1 :: a0 :: data) s (4 + (x - be24 a2 a1 a0)))
        else s.mem.read x

/-- R188: an empty `X` resets the device and answers nothing; any payload is InvalidPayload. -/
def Obligations.StopCommand : Prop :=
  (∀ s : State, exec (.x []) s = .next { s with
    ctl := .doneReset, pos := .body, out := s.out ++ [.resetRequest] }) ∧
  (∀ (p : List Byte) (s : State), p ≠ [] →
    exec (.x p) s = .next { s with st := .invalidPayload, pos := .respond .invalid })

/-- R189: every other opcode byte is InvalidPayload, with no write, whatever the payload is. -/
def Obligations.UnknownOpcode : Prop :=
  ∀ (op : Byte) (p : List Byte) (s : State),
    (op ≠ 0x4D#8 → op ≠ 0x4E#8 → op ≠ 0x44#8 → op ≠ 0x58#8 → decodeCommand op p = .unknown op p) ∧
    exec (.unknown op p) s = .next { s with st := .invalidPayload, pos := .respond .invalid }

/-- R42, R74, R131: a step, a power failure included, changes no byte of the array but those the sequence in progress is
still to change, and while that sequence runs no address joins them. -/
def Obligations.StepsStayOnTarget : Prop :=
  ∀ (s t : State) (x : Nat), s.Inv → step s = .next t → s.pending x = false →
    t.mem.read x = s.mem.read x ∧ (s.todo ≠ [] → t.pending x = false)

/-- R190 (b), (c), (e), R74, R131: whatever happens while a command runs, a power failure included, no byte of the array
outside the command's target changes. -/
def Obligations.CommandWritesConfined : Prop :=
  ∀ (s t u : State) (p : List Byte) (op : Byte) (n x : Nat), s.Inv → s.todo = [] → s.ctl = .receive →
    s.pos = .dispatch → runSequence n t = .next u →
    (exec (.m p) s = .next t → ¬ (s.cfg.codeSizeOffset ≤ x ∧ x < s.cfg.codeSizeOffset + 3) →
      u.mem.read x = s.mem.read x) ∧
    (exec (.n p) s = .next t → ¬ (s.cfg.signatOffset ≤ x ∧ x < s.cfg.signatOffset + 64) →
      u.mem.read x = s.mem.read x) ∧
    (exec (.d p) s = .next t → dAddr p s = 0 → ¬ (4 ≤ x ∧ x < max 8 (dSize p s + 4)) →
      u.mem.read x = s.mem.read x) ∧
    (exec (.d p) s = .next t → dAddr p s ≠ 0 → ¬ (dAddr p s ≤ x ∧ x < dAddr p s + dSize p s) →
      u.mem.read x = s.mem.read x) ∧
    (exec (.x p) s = .next t → u.mem = s.mem) ∧
    (exec (.unknown op p) s = .next t → u.mem = s.mem)

/-- R64, R190 (d) (P1 of R8, the spec's named premise, and EXACT, D18): no `D` frame changes a byte of the signature
record, whatever happens while it runs. -/
def Obligations.SignatureRecordProtected : Prop :=
  ∀ (s t u : State) (p : List Byte) (n x : Nat), s.Inv → s.todo = [] → s.ctl = .receive → s.pos = .dispatch →
    s.cfg.addrSumMode = .exact → s.cfg.P1 →
    exec (.d p) s = .next t → runSequence n t = .next u → s.cfg.signatOffset ≤ x → x < s.cfg.btldOffset →
    u.mem.read x = s.mem.read x

/-- R294, R190 (C6, D18): outside ERASE no step changes the reset vector unless the command that runs is a `D` frame aimed
at address 1, 2 or 3. -/
def Obligations.ResetVectorProtected : Prop :=
  ∀ (s t u : State) (op : Byte) (p : List Byte) (n x : Nat), s.Inv → s.todo = [] → s.ctl = .receive →
    s.pos = .dispatch → s.cfg.addrSumMode = .exact → exec (decodeCommand op p) s = .next t →
    runSequence n t = .next u →
    (op = opD → 5 ≤ p.length → dAddr p s = 0 ∨ 4 ≤ dAddr p s) → x < 4 → u.mem.read x = s.mem.read x

/-- R261: a command that ends with a status other than Success has written nothing. -/
def Obligations.FailedCommandWroteNothing : Prop :=
  ∀ (s t u : State) (op : Byte) (p : List Byte) (n : Nat), s.Inv → s.todo = [] → s.ctl = .receive →
    s.pos = .dispatch → exec (decodeCommand op p) s = .next t → runSequence n t = .next u → u.todo = [] →
    u.powered = true → u.st ≠ .success → u.mem = s.mem

/-! ### The digest pipeline (43_digest.md) -/

/-- R213, bit-exact: bytes `[4, 8)` of the first chunk move to `[0, 4)`, then `[4, 8)` is 0xFF, the rest stays; only the
chunk at address 0 is canonicalized. -/
def Obligations.Canonicalization : Prop :=
  (∀ c : List Byte, c.length = 64 → (canon c).length = 64 ∧
    ∀ i, i < 64 → (canon c).getD i 0#8 =
      if i < 4 then c.getD (i + 4) 0#8 else if i < 8 then 0xFF#8 else c.getD i 0#8) ∧
  (∀ (bytes : List Byte) (rest : List Task) (s : State),
    (storeChunk bytes rest s).chunk = if s.dgAddr = 0 then canon bytes else bytes)

/-- R212 (D27): streaming a message in any pieces gives the hash of the whole. -/
def Obligations.StreamingHash : Prop :=
  ∀ pieces : List (List Byte), hashFinal (pieces.foldl hashUpdate hashInit) = sha256 pieces.flatten

/-- R210 to R215, closed form R214 (derived in the spec): VERIFY_AND_BOOT takes the digest of the canonical image of the
size its field holds, when that lies in the array, hands it to VERIFY with the stored signature, goes on to the response to
the verdict and changes nothing else. -/
def Obligations.VerifyHashesCanonicalImage : Prop :=
  ∀ s : State, s.cfg.Wf → s.Settled → s.Alone → s.ctl = .verifyAndBoot → s.pos = .body →
    imageSize s ≤ s.cfg.flashSize →
    ∃ t a c x, step s = .next t ∧ t.Finishes { s with
      dgN := imageSize s, dgAddr := a, dgRem := 0, chunk := c, dgCtx := x
      digest := sha256 (canonImage s.mem (imageSize s))
      sigOk := Config.verify Config.pubKey (sha256 (canonImage s.mem (imageSize s))) (storedSignature s)
      pos := .respond (verdictResponse
        (Config.verify Config.pubKey (sha256 (canonImage s.mem (imageSize s))) (storedSignature s))) }

/-- R210, R211 (D26, D38), U24: an image size beyond the array is not rejected; the pipeline still comes to its end, with
the verdict of the digest it took. -/
def Obligations.VerifyAlwaysAnswers : Prop :=
  ∀ s : State, s.cfg.Wf → s.Settled → s.Alone → s.ctl = .verifyAndBoot → s.pos = .body →
    ∃ t u, step s = .next t ∧ t.Finishes u ∧ u.mem = s.mem ∧ u.out = s.out ∧ u.dgN = imageSize s ∧ u.dgRem = 0 ∧
      u.digest = hashFinal u.dgCtx ∧ u.sigOk = Config.verify Config.pubKey u.digest (storedSignature s) ∧
      u.ctl = .verifyAndBoot ∧ u.pos = .respond (verdictResponse u.sigOk)

/-- R214 (C14): the digest depends on the image size, on the bytes `4 + i` for `i < min 4 size` and on the bytes of
`[8, size)`, on nothing else of the array. -/
def Obligations.DigestDependsOnCanonicalBytes : Prop :=
  ∀ (s s' t t' u u' : State), s.cfg.Wf → s.Settled → s.Alone → s.ctl = .verifyAndBoot → s.pos = .body →
    s'.cfg = s.cfg → s'.Settled → s'.Alone → s'.ctl = .verifyAndBoot → s'.pos = .body →
    imageSize s ≤ s.cfg.flashSize → imageSize s' = imageSize s →
    (∀ i, i < min 4 (imageSize s) → s'.mem.read (4 + i) = s.mem.read (4 + i)) →
    (∀ x, 8 ≤ x → x < imageSize s → s'.mem.read x = s.mem.read x) →
    step s = .next t → step s' = .next t' → t.Finishes u → t'.Finishes u' → u'.digest = u.digest

/-! ### The sequencer (44_sequencer.md) -/

/-- R232, R292: the entry to HANDSHAKE_WAIT, and that it is the block's first step after every reset. -/
def Obligations.HandshakeEntry : Prop :=
  (∀ s : State, s.Alone → s.todo = [] → s.ctl = .handshakeWait → s.pos = .entry →
    step s = .next { s with
      rxEnable := true, hsMatched := 0, hsBudget := s.cfg.handshakeBudget, pos := .body }) ∧
  ∀ s t : State, resetBlock s = .next t →
    t.ctl = .handshakeWait ∧ t.pos = .entry ∧ t.todo = [] ∧ t.powered = true

/-- R233, R234 (D22, D23): one poll of the handshake: the spent budget, no byte, the byte expected, the last byte
expected, any other byte. -/
def Obligations.HandshakePoll : Prop :=
  ∀ s : State,
    (s.hsBudget = 0 → exec .hsReq s = .next { s with ctl := .verifyAndBoot, pos := .body }) ∧
    (0 < s.hsBudget → s.rxEnable = false ∨ s.rxq = [] →
      exec .hsReq s = .next { s with hsBudget := s.hsBudget - 1 }) ∧
    (∀ b q, 0 < s.hsBudget → s.rxEnable = true → s.rxq = b :: q →
      (hsReqBytes[s.hsMatched]? = some b → s.hsMatched < 4 →
        exec .hsReq s = .next { s with hsBudget := s.hsBudget - 1, rxq := q, hsMatched := s.hsMatched + 1 }) ∧
      (hsReqBytes[s.hsMatched]? = some b → s.hsMatched = 4 →
        exec .hsReq s = .next { s with
          hsBudget := s.hsBudget - 1, rxq := q, hsMatched := 5, ctl := .erase, pos := .body }) ∧
      (hsReqBytes[s.hsMatched]? ≠ some b →
        exec .hsReq s = .next { s with hsBudget := s.hsBudget - 1, rxq := q, hsMatched := 0 }))

/-- R233, R310: the handshake wait ends within its budget and one step, whatever bytes wait, and leaves the array
alone. -/
def Obligations.HandshakeWaitEnds : Prop :=
  ∀ s : State, s.Alone → s.todo = [] → s.ctl = .handshakeWait → s.pos = .body →
    ∃ k t, k ≤ s.hsBudget + 1 ∧ runSteps k s = .next t ∧ (t.ctl = .verifyAndBoot ∨ t.ctl = .erase) ∧
      t.mem = s.mem ∧ t.out = s.out

/-- R235, R130 (D8, D9, D24): the ERASE state drops what the receiver holds, erases below BTLD_OFFSET, keeps the vector
and goes on to the handshake response. -/
def Obligations.EraseStateErases : Prop :=
  ∀ s : State, s.cfg.Wf → s.Settled → s.Alone → s.ctl = .erase → s.pos = .body →
    ∃ t m, step s = .next t ∧
      t.Finishes { s with mem := m, sv := resetVector s.mem, rxEnable := false, rxq := [], pos := .reply } ∧
      ∀ x, m.read x =
        if x < 4 then s.mem.read x else if x < s.cfg.btldOffset then erasedByte else s.mem.read x

/-- R235, R98 (D15, D24): the handshake response is sent, byte by byte, then the receiver is on, the framer initialised and
RECEIVE entered; the buffer is not cleared. -/
def Obligations.HandshakeResponse : Prop :=
  ∀ s : State, s.Alone → s.ctl ≠ .doneJump → s.Settled →
    exec .hsRsp s = .next { s with todo := [.tx 0x40#8, .tx 0x4F#8, .tx 0x4B#8, .tx 0x0A#8, .enterReceive] } ∧
    State.Finishes { s with todo := [.tx 0x40#8, .tx 0x4F#8, .tx 0x4B#8, .tx 0x0A#8, .enterReceive] } { s with
      out := s.out ++ [.byte 0x40#8, .byte 0x4F#8, .byte 0x4B#8, .byte 0x0A#8]
      unread := s.unread + 4
      rxEnable := true, rxq := [], frMode := .normal, frIdx := 0, ctl := .receive, pos := .body }

/-- R41: a Tx has its byte on its way and then delivers it, in two steps of the block; a power failure between them may lose
it (U16). -/
def Obligations.TransmitDelivers : Prop :=
  ∀ (s : State) (b : Byte) (rest : List Task), s.Alone → s.ctl ≠ .doneJump → s.todo = .tx b :: rest →
    (s.txFlight = none → step s = .next { s with txFlight := some b }) ∧
    (s.txFlight = some b → step s = .next { s with
      txFlight := none, out := s.out ++ [.byte b], unread := s.unread + 1, todo := rest }) ∧
    (s.txFlight = some b → (powerFail s).out = s.out ++ [.byte b] ∨ (powerFail s).out = s.out)

/-- R155: the acknowledgment of a successful frame; the framer is ready for the next. -/
def Obligations.Acknowledgment : Prop :=
  ∀ s : State, s.Alone → s.ctl ≠ .doneJump → s.Settled →
    exec (.rsp .ack) s = .next { s with frIdx := 0, todo := [.tx s.cfg.rspAck, .after .ack] } ∧
    State.Finishes { s with frIdx := 0, todo := [.tx s.cfg.rspAck, .after .ack] } { s with
      out := s.out ++ [.byte s.cfg.rspAck], unread := s.unread + 1
      frIdx := 0, ctl := .receive, pos := .body }

/-- R239, R261 (D33): a raised status is reported once, then the device is reset. -/
def Obligations.ErrorReport : Prop :=
  ∀ s : State, s.Alone → s.ctl ≠ .doneJump → s.Settled →
    (exec (.rsp .invalid) s = .next { s with todo := [.tx s.cfg.rspInvalid, .after .invalid] } ∧
      State.Finishes { s with todo := [.tx s.cfg.rspInvalid, .after .invalid] } { s with
        out := s.out ++ [.byte s.cfg.rspInvalid, .resetRequest], unread := s.unread + 1
        ctl := .doneReset, pos := .body }) ∧
    exec (.rsp .denied) s = .next { s with todo := [.tx s.cfg.rspDenied, .after .denied] } ∧
      State.Finishes { s with todo := [.tx s.cfg.rspDenied, .after .denied] } { s with
        out := s.out ++ [.byte s.cfg.rspDenied, .resetRequest], unread := s.unread + 1
        ctl := .doneReset, pos := .body }

/-- R236, R238 (D25): the verdict is answered, then control goes to the application at 4 or the device is reset. -/
def Obligations.VerdictResponse : Prop :=
  ∀ s : State, s.Alone → s.ctl ≠ .doneJump → s.Settled →
    (exec (.rsp .sigValid) s = .next { s with todo := [.tx s.cfg.rspSigValid, .after .sigValid] } ∧
      State.Finishes { s with todo := [.tx s.cfg.rspSigValid, .after .sigValid] } { s with
        out := s.out ++ [.byte s.cfg.rspSigValid, .jump 4], unread := s.unread + 1
        ctl := .doneJump, pos := .body }) ∧
    exec (.rsp .sigInvalid) s = .next { s with todo := [.tx s.cfg.rspSigInvalid, .after .sigInvalid] } ∧
      State.Finishes { s with todo := [.tx s.cfg.rspSigInvalid, .after .sigInvalid] } { s with
        out := s.out ++ [.byte s.cfg.rspSigInvalid, .resetRequest], unread := s.unread + 1
        ctl := .doneReset, pos := .body }

/-- R22, R238, U29: after TransferControl the block takes no step. -/
def Obligations.NoStepAfterTransfer : Prop :=
  ∀ s : State, s.ctl = .doneJump → step s = .refused .controlTransferred

/-- R237: a poll of RECEIVE that returns no byte changes nothing. -/
def Obligations.SilentReceiveWaits : Prop :=
  ∀ s : State, s.Alone → s.todo = [] → s.ctl = .receive → s.pos = .body → s.rxEnable = false ∨ s.rxq = [] →
    step s = .next s

/-- R231, R22: a step that powers neither on nor off makes only the transitions of the state table, from a state whose
position and sequence belong to its control state. -/
def Obligations.ControlTransitions : Prop :=
  ∀ s t : State, legalPos s.ctl s.pos = true → legalTodo s.cfg s.ctl s.pos s.todo = true → s.powered = true →
    t.powered = true → step s = .next t → transitionOk s.ctl t.ctl = true

/-- R12, R22: while a sequence is in progress the block's step is one primitive of its first operation, alone or by the
schedule, and every other move of the schedule may come before it; a cycle or a Tx holds the host's moves back. What uses no
primitive (a returned status, the way back to the receive loop, the entry to RECEIVE after the reply: R235, R301) follows
at once, whatever the schedule says. -/
def Obligations.OnePrimitivePerStep : Prop :=
  ∀ (s : State) (task : Task) (rest : List Task), s.powered = true → s.ctl ≠ .doneJump → s.todo = task :: rest →
    (s.inStep = true ↔ (∃ st, task = .ret st) ∨ task = .after .ack ∨ task = .enterReceive) ∧
    (s.inStep = true → step s = taskStep task rest s) ∧
    (s.inStep = false → ∀ e,
      (s.env = [] ∧ e = [] ∨ s.env = .run :: e → step s = taskStep task rest { s with env := e }) ∧
      (s.env = .powerFail :: e → step s = .next (powerFail { s with env := e })) ∧
      (s.nvmBusy = .idle → s.txFlight = none →
        (∀ b, s.env = .offer b :: e → step s = .next (hostOffer b { s with env := e })) ∧
        (s.env = .read :: e → step s = .next { s with env := e, unread := s.unread - 1 })) ∧
      (s.nvmBusy ≠ .idle ∨ s.txFlight ≠ none →
        (∃ b, s.env = .offer b :: e) ∨ s.env = .read :: e → step s = taskStep task rest s))

/-! ### Reset and the environment (70_reset_and_hazards.md, 10_state.md) -/

/-- R290, R291, R294 (D15, D30, D41): the reset that follows ResetDevice, a power failure or an external reset keeps the
array and gives the volatile elements their reset values, the frame buffer draws; with a changed vector the block is
stuck. -/
def Obligations.ResetRestartsBlock : Prop :=
  ∀ s : State, s.env = [] → s.todo = [] → (s.ctl = .doneReset ∨ s.powered = false ∧ s.ctl ≠ .doneJump) →
    (resetVector s.mem = s.cfg.vec0 →
      ∃ t, step s = .next t ∧ t.mem = s.mem ∧ t.cfg = s.cfg ∧ t.out = s.out ∧ t.powered = true ∧
        t.ctl = .handshakeWait ∧ t.pos = .entry ∧ t.rxEnable = false ∧ t.rxq = [] ∧ t.frMode = .normal ∧ t.frIdx = 0 ∧
        t.Settled ∧ t.buf.length = s.cfg.frameBufSize ∧ ∀ b ∈ t.buf, ∃ n, b = Config.draw n) ∧
    (resetVector s.mem ≠ s.cfg.vec0 → step s = .fault .noBootloader)

/-- R40, R300 (D24): a byte the host offers waits, is dropped while the receiver is off, and is not offered where that would
break a duty (U26, U27). -/
def Obligations.HostOffers : Prop :=
  ∀ (s : State) (b : Byte) (e : List Move), s.env = .offer b :: e → s.ctl ≠ .doneJump → s.inStep = false →
    s.held = false →
    (s.ctl ≠ .receive → s.rxEnable = true → step s = .next { s with env := e, rxq := s.rxq ++ [b] }) ∧
    (s.rxEnable = false → step s = .next { s with env := e }) ∧
    (s.ctl = .receive → s.powered = true → s.pos = .body ∨ (∃ r, s.todo = [.after r]) → s.unread = 0 → s.rxq = [] →
      s.rxEnable = true → step s = .next { s with env := e, rxq := [b] }) ∧
    (s.ctl = .receive → s.powered = true → s.pos ≠ .body ∧ (∀ r, s.todo ≠ [.after r]) ∨ 0 < s.unread →
      step s = .next { s with env := e })

/-- A step between two sequences runs the decoded instruction: a received byte by the framer's state, a complete frame by
its opcode, a response, a poll of the handshake, the handshake response. A poll, the ResetDevice of `X` and the raising of a
status are primitives and take the block's turn from the schedule, and a poll the byte from the receiver; around `exec` the
step does nothing else. The other instructions start in the middle of a step, whatever the schedule says (R12). -/
def Obligations.StepRunsDecodedInstruction : Prop :=
  ∀ s : State, s.powered = true → s.todo = [] →
    (∀ e, s.env = [] ∧ e = [] ∨ s.env = .run :: e →
      (∀ b q, s.ctl = .receive → s.pos = .body → s.rxEnable = true → s.rxq = b :: q →
        step s = exec (wireInstr s b) { s with rxq := q, env := e }) ∧
      (s.ctl = .handshakeWait → s.pos ≠ .entry → step s = exec .hsReq { s with env := e }) ∧
      (∀ i, s.ctl = .receive → s.pos = .dispatch →
        i = decodeCommand (s.buf.getD 1 0#8) ((s.buf.take s.frIdx).drop 2) →
        i = .x [] ∨ commandStatus i s ≠ .success → step s = exec i { s with env := e })) ∧
    (∀ i, s.ctl = .receive → s.pos = .dispatch →
      i = decodeCommand (s.buf.getD 1 0#8) ((s.buf.take s.frIdx).drop 2) →
      i ≠ .x [] → commandStatus i s = .success → step s = exec i s) ∧
    (∀ r, s.ctl = .receive ∨ s.ctl = .verifyAndBoot → s.pos = .respond r → step s = exec (.rsp r) s) ∧
    (s.ctl = .erase → s.pos = .reply → step s = exec .hsRsp s)

/-! ### The whole machine -/

/-- The reset state meets the invariant, and its array holds the vector; it rests on the launch configuration of log 4. -/
def Obligations.ResetMeetsInvariant : Prop := State.reset.Inv ∧ State.reset.VectorKept

/-- Every step keeps the invariant: the array's canonical form and address range, the ranges of R20 to R33, a sequence that
belongs to the control state, a storage controller in step with it. -/
def Obligations.StepKeepsInvariant : Prop :=
  ∀ s t : State, s.Inv → step s = .next t → t.Inv

/-- R65 (EXACT, D18): no step, a power failure included, changes a byte of the bootloader's code. -/
def Obligations.BootloaderCodeNeverWritten : Prop :=
  ∀ (s t : State) (x : Nat), s.Inv → s.cfg.addrSumMode = .exact → step s = .next t → s.cfg.btldOffset ≤ x →
    t.mem.read x = s.mem.read x

/-- R292, R72, R30: the array changes only in ERASE or in a command, and only while a cycle is in progress. -/
def Obligations.ArrayChangesOnlyInEraseOrCommand : Prop :=
  ∀ s t : State, s.Inv → step s = .next t →
    t.mem = s.mem ∨
      s.nvmBusy ≠ .idle ∧ (s.ctl = .erase ∧ s.pos = .reply ∨ s.ctl = .receive ∧ s.pos = .dispatch)

/-- R6: the parameters are fixed at build time; no step changes them. -/
def Obligations.ParametersFixed : Prop :=
  ∀ s t : State, step s = .next t → t.cfg = s.cfg

/-- R41: what has left the block stays as it is; a step only adds to it, at the end. -/
def Obligations.OutputsInOrder : Prop :=
  ∀ s t : State, step s = .next t → ∃ l, t.out = s.out ++ l
end

