-- ==== Sys2Proof/Laws/State.lean ====
section
/-! SUPPORT. One lemma per state element per update of Machine/Ops.lean, so that no proof unfolds a record update; the
same for a power failure and a reset (R131, R291). -/

namespace Sys2Proof.Machine

variable (s : State)

section setMem
variable (m : Memory)
@[simp] theorem State.setMem_cfg : (s.setMem m).cfg = s.cfg := rfl
@[simp] theorem State.setMem_mem : (s.setMem m).mem = m := rfl
@[simp] theorem State.setMem_ctl : (s.setMem m).ctl = s.ctl := rfl
@[simp] theorem State.setMem_pos : (s.setMem m).pos = s.pos := rfl
@[simp] theorem State.setMem_todo : (s.setMem m).todo = s.todo := rfl
@[simp] theorem State.setMem_hsMatched : (s.setMem m).hsMatched = s.hsMatched := rfl
@[simp] theorem State.setMem_hsBudget : (s.setMem m).hsBudget = s.hsBudget := rfl
@[simp] theorem State.setMem_rxEnable : (s.setMem m).rxEnable = s.rxEnable := rfl
@[simp] theorem State.setMem_frMode : (s.setMem m).frMode = s.frMode := rfl
@[simp] theorem State.setMem_frIdx : (s.setMem m).frIdx = s.frIdx := rfl
@[simp] theorem State.setMem_buf : (s.setMem m).buf = s.buf := rfl
@[simp] theorem State.setMem_latchBlk : (s.setMem m).latchBlk = s.latchBlk := rfl
@[simp] theorem State.setMem_latchMap : (s.setMem m).latchMap = s.latchMap := rfl
@[simp] theorem State.setMem_nvmBusy : (s.setMem m).nvmBusy = s.nvmBusy := rfl
@[simp] theorem State.setMem_sv : (s.setMem m).sv = s.sv := rfl
@[simp] theorem State.setMem_st : (s.setMem m).st = s.st := rfl
@[simp] theorem State.setMem_dgN : (s.setMem m).dgN = s.dgN := rfl
@[simp] theorem State.setMem_dgAddr : (s.setMem m).dgAddr = s.dgAddr := rfl
@[simp] theorem State.setMem_dgRem : (s.setMem m).dgRem = s.dgRem := rfl
@[simp] theorem State.setMem_chunk : (s.setMem m).chunk = s.chunk := rfl
@[simp] theorem State.setMem_dgCtx : (s.setMem m).dgCtx = s.dgCtx := rfl
@[simp] theorem State.setMem_digest : (s.setMem m).digest = s.digest := rfl
@[simp] theorem State.setMem_sigOk : (s.setMem m).sigOk = s.sigOk := rfl
@[simp] theorem State.setMem_rxq : (s.setMem m).rxq = s.rxq := rfl
@[simp] theorem State.setMem_txFlight : (s.setMem m).txFlight = s.txFlight := rfl
@[simp] theorem State.setMem_out : (s.setMem m).out = s.out := rfl
@[simp] theorem State.setMem_bootFrom : (s.setMem m).bootFrom = s.bootFrom := rfl
@[simp] theorem State.setMem_unread : (s.setMem m).unread = s.unread := rfl
@[simp] theorem State.setMem_powered : (s.setMem m).powered = s.powered := rfl
@[simp] theorem State.setMem_env : (s.setMem m).env = s.env := rfl
@[simp] theorem State.setMem_draws : (s.setMem m).draws = s.draws := rfl
end setMem

section goto
variable (c : Ctl) (p : Pos)
@[simp] theorem State.goto_cfg : (s.goto c p).cfg = s.cfg := rfl
@[simp] theorem State.goto_mem : (s.goto c p).mem = s.mem := rfl
@[simp] theorem State.goto_ctl : (s.goto c p).ctl = c := rfl
@[simp] theorem State.goto_pos : (s.goto c p).pos = p := rfl
@[simp] theorem State.goto_todo : (s.goto c p).todo = s.todo := rfl
@[simp] theorem State.goto_hsMatched : (s.goto c p).hsMatched = s.hsMatched := rfl
@[simp] theorem State.goto_hsBudget : (s.goto c p).hsBudget = s.hsBudget := rfl
@[simp] theorem State.goto_rxEnable : (s.goto c p).rxEnable = s.rxEnable := rfl
@[simp] theorem State.goto_frMode : (s.goto c p).frMode = s.frMode := rfl
@[simp] theorem State.goto_frIdx : (s.goto c p).frIdx = s.frIdx := rfl
@[simp] theorem State.goto_buf : (s.goto c p).buf = s.buf := rfl
@[simp] theorem State.goto_latchBlk : (s.goto c p).latchBlk = s.latchBlk := rfl
@[simp] theorem State.goto_latchMap : (s.goto c p).latchMap = s.latchMap := rfl
@[simp] theorem State.goto_nvmBusy : (s.goto c p).nvmBusy = s.nvmBusy := rfl
@[simp] theorem State.goto_sv : (s.goto c p).sv = s.sv := rfl
@[simp] theorem State.goto_st : (s.goto c p).st = s.st := rfl
@[simp] theorem State.goto_dgN : (s.goto c p).dgN = s.dgN := rfl
@[simp] theorem State.goto_dgAddr : (s.goto c p).dgAddr = s.dgAddr := rfl
@[simp] theorem State.goto_dgRem : (s.goto c p).dgRem = s.dgRem := rfl
@[simp] theorem State.goto_chunk : (s.goto c p).chunk = s.chunk := rfl
@[simp] theorem State.goto_dgCtx : (s.goto c p).dgCtx = s.dgCtx := rfl
@[simp] theorem State.goto_digest : (s.goto c p).digest = s.digest := rfl
@[simp] theorem State.goto_sigOk : (s.goto c p).sigOk = s.sigOk := rfl
@[simp] theorem State.goto_rxq : (s.goto c p).rxq = s.rxq := rfl
@[simp] theorem State.goto_txFlight : (s.goto c p).txFlight = s.txFlight := rfl
@[simp] theorem State.goto_out : (s.goto c p).out = s.out := rfl
@[simp] theorem State.goto_bootFrom : (s.goto c p).bootFrom = s.bootFrom := rfl
@[simp] theorem State.goto_unread : (s.goto c p).unread = s.unread := rfl
@[simp] theorem State.goto_powered : (s.goto c p).powered = s.powered := rfl
@[simp] theorem State.goto_env : (s.goto c p).env = s.env := rfl
@[simp] theorem State.goto_draws : (s.goto c p).draws = s.draws := rfl
end goto

section setPos
variable (p : Pos)
@[simp] theorem State.setPos_cfg : (s.setPos p).cfg = s.cfg := rfl
@[simp] theorem State.setPos_mem : (s.setPos p).mem = s.mem := rfl
@[simp] theorem State.setPos_ctl : (s.setPos p).ctl = s.ctl := rfl
@[simp] theorem State.setPos_pos : (s.setPos p).pos = p := rfl
@[simp] theorem State.setPos_todo : (s.setPos p).todo = s.todo := rfl
@[simp] theorem State.setPos_hsMatched : (s.setPos p).hsMatched = s.hsMatched := rfl
@[simp] theorem State.setPos_hsBudget : (s.setPos p).hsBudget = s.hsBudget := rfl
@[simp] theorem State.setPos_rxEnable : (s.setPos p).rxEnable = s.rxEnable := rfl
@[simp] theorem State.setPos_frMode : (s.setPos p).frMode = s.frMode := rfl
@[simp] theorem State.setPos_frIdx : (s.setPos p).frIdx = s.frIdx := rfl
@[simp] theorem State.setPos_buf : (s.setPos p).buf = s.buf := rfl
@[simp] theorem State.setPos_latchBlk : (s.setPos p).latchBlk = s.latchBlk := rfl
@[simp] theorem State.setPos_latchMap : (s.setPos p).latchMap = s.latchMap := rfl
@[simp] theorem State.setPos_nvmBusy : (s.setPos p).nvmBusy = s.nvmBusy := rfl
@[simp] theorem State.setPos_sv : (s.setPos p).sv = s.sv := rfl
@[simp] theorem State.setPos_st : (s.setPos p).st = s.st := rfl
@[simp] theorem State.setPos_dgN : (s.setPos p).dgN = s.dgN := rfl
@[simp] theorem State.setPos_dgAddr : (s.setPos p).dgAddr = s.dgAddr := rfl
@[simp] theorem State.setPos_dgRem : (s.setPos p).dgRem = s.dgRem := rfl
@[simp] theorem State.setPos_chunk : (s.setPos p).chunk = s.chunk := rfl
@[simp] theorem State.setPos_dgCtx : (s.setPos p).dgCtx = s.dgCtx := rfl
@[simp] theorem State.setPos_digest : (s.setPos p).digest = s.digest := rfl
@[simp] theorem State.setPos_sigOk : (s.setPos p).sigOk = s.sigOk := rfl
@[simp] theorem State.setPos_rxq : (s.setPos p).rxq = s.rxq := rfl
@[simp] theorem State.setPos_txFlight : (s.setPos p).txFlight = s.txFlight := rfl
@[simp] theorem State.setPos_out : (s.setPos p).out = s.out := rfl
@[simp] theorem State.setPos_bootFrom : (s.setPos p).bootFrom = s.bootFrom := rfl
@[simp] theorem State.setPos_unread : (s.setPos p).unread = s.unread := rfl
@[simp] theorem State.setPos_powered : (s.setPos p).powered = s.powered := rfl
@[simp] theorem State.setPos_env : (s.setPos p).env = s.env := rfl
@[simp] theorem State.setPos_draws : (s.setPos p).draws = s.draws := rfl
end setPos

section setTodo
variable (ts : List Task)
@[simp] theorem State.setTodo_cfg : (s.setTodo ts).cfg = s.cfg := rfl
@[simp] theorem State.setTodo_mem : (s.setTodo ts).mem = s.mem := rfl
@[simp] theorem State.setTodo_ctl : (s.setTodo ts).ctl = s.ctl := rfl
@[simp] theorem State.setTodo_pos : (s.setTodo ts).pos = s.pos := rfl
@[simp] theorem State.setTodo_todo : (s.setTodo ts).todo = ts := rfl
@[simp] theorem State.setTodo_hsMatched : (s.setTodo ts).hsMatched = s.hsMatched := rfl
@[simp] theorem State.setTodo_hsBudget : (s.setTodo ts).hsBudget = s.hsBudget := rfl
@[simp] theorem State.setTodo_rxEnable : (s.setTodo ts).rxEnable = s.rxEnable := rfl
@[simp] theorem State.setTodo_frMode : (s.setTodo ts).frMode = s.frMode := rfl
@[simp] theorem State.setTodo_frIdx : (s.setTodo ts).frIdx = s.frIdx := rfl
@[simp] theorem State.setTodo_buf : (s.setTodo ts).buf = s.buf := rfl
@[simp] theorem State.setTodo_latchBlk : (s.setTodo ts).latchBlk = s.latchBlk := rfl
@[simp] theorem State.setTodo_latchMap : (s.setTodo ts).latchMap = s.latchMap := rfl
@[simp] theorem State.setTodo_nvmBusy : (s.setTodo ts).nvmBusy = s.nvmBusy := rfl
@[simp] theorem State.setTodo_sv : (s.setTodo ts).sv = s.sv := rfl
@[simp] theorem State.setTodo_st : (s.setTodo ts).st = s.st := rfl
@[simp] theorem State.setTodo_dgN : (s.setTodo ts).dgN = s.dgN := rfl
@[simp] theorem State.setTodo_dgAddr : (s.setTodo ts).dgAddr = s.dgAddr := rfl
@[simp] theorem State.setTodo_dgRem : (s.setTodo ts).dgRem = s.dgRem := rfl
@[simp] theorem State.setTodo_chunk : (s.setTodo ts).chunk = s.chunk := rfl
@[simp] theorem State.setTodo_dgCtx : (s.setTodo ts).dgCtx = s.dgCtx := rfl
@[simp] theorem State.setTodo_digest : (s.setTodo ts).digest = s.digest := rfl
@[simp] theorem State.setTodo_sigOk : (s.setTodo ts).sigOk = s.sigOk := rfl
@[simp] theorem State.setTodo_rxq : (s.setTodo ts).rxq = s.rxq := rfl
@[simp] theorem State.setTodo_txFlight : (s.setTodo ts).txFlight = s.txFlight := rfl
@[simp] theorem State.setTodo_out : (s.setTodo ts).out = s.out := rfl
@[simp] theorem State.setTodo_bootFrom : (s.setTodo ts).bootFrom = s.bootFrom := rfl
@[simp] theorem State.setTodo_unread : (s.setTodo ts).unread = s.unread := rfl
@[simp] theorem State.setTodo_powered : (s.setTodo ts).powered = s.powered := rfl
@[simp] theorem State.setTodo_env : (s.setTodo ts).env = s.env := rfl
@[simp] theorem State.setTodo_draws : (s.setTodo ts).draws = s.draws := rfl
end setTodo

section setHandshake
variable (k n : Nat)
@[simp] theorem State.setHandshake_cfg : (s.setHandshake k n).cfg = s.cfg := rfl
@[simp] theorem State.setHandshake_mem : (s.setHandshake k n).mem = s.mem := rfl
@[simp] theorem State.setHandshake_ctl : (s.setHandshake k n).ctl = s.ctl := rfl
@[simp] theorem State.setHandshake_pos : (s.setHandshake k n).pos = s.pos := rfl
@[simp] theorem State.setHandshake_todo : (s.setHandshake k n).todo = s.todo := rfl
@[simp] theorem State.setHandshake_hsMatched : (s.setHandshake k n).hsMatched = k := rfl
@[simp] theorem State.setHandshake_hsBudget : (s.setHandshake k n).hsBudget = n := rfl
@[simp] theorem State.setHandshake_rxEnable : (s.setHandshake k n).rxEnable = s.rxEnable := rfl
@[simp] theorem State.setHandshake_frMode : (s.setHandshake k n).frMode = s.frMode := rfl
@[simp] theorem State.setHandshake_frIdx : (s.setHandshake k n).frIdx = s.frIdx := rfl
@[simp] theorem State.setHandshake_buf : (s.setHandshake k n).buf = s.buf := rfl
@[simp] theorem State.setHandshake_latchBlk : (s.setHandshake k n).latchBlk = s.latchBlk := rfl
@[simp] theorem State.setHandshake_latchMap : (s.setHandshake k n).latchMap = s.latchMap := rfl
@[simp] theorem State.setHandshake_nvmBusy : (s.setHandshake k n).nvmBusy = s.nvmBusy := rfl
@[simp] theorem State.setHandshake_sv : (s.setHandshake k n).sv = s.sv := rfl
@[simp] theorem State.setHandshake_st : (s.setHandshake k n).st = s.st := rfl
@[simp] theorem State.setHandshake_dgN : (s.setHandshake k n).dgN = s.dgN := rfl
@[simp] theorem State.setHandshake_dgAddr : (s.setHandshake k n).dgAddr = s.dgAddr := rfl
@[simp] theorem State.setHandshake_dgRem : (s.setHandshake k n).dgRem = s.dgRem := rfl
@[simp] theorem State.setHandshake_chunk : (s.setHandshake k n).chunk = s.chunk := rfl
@[simp] theorem State.setHandshake_dgCtx : (s.setHandshake k n).dgCtx = s.dgCtx := rfl
@[simp] theorem State.setHandshake_digest : (s.setHandshake k n).digest = s.digest := rfl
@[simp] theorem State.setHandshake_sigOk : (s.setHandshake k n).sigOk = s.sigOk := rfl
@[simp] theorem State.setHandshake_rxq : (s.setHandshake k n).rxq = s.rxq := rfl
@[simp] theorem State.setHandshake_txFlight : (s.setHandshake k n).txFlight = s.txFlight := rfl
@[simp] theorem State.setHandshake_out : (s.setHandshake k n).out = s.out := rfl
@[simp] theorem State.setHandshake_bootFrom : (s.setHandshake k n).bootFrom = s.bootFrom := rfl
@[simp] theorem State.setHandshake_unread : (s.setHandshake k n).unread = s.unread := rfl
@[simp] theorem State.setHandshake_powered : (s.setHandshake k n).powered = s.powered := rfl
@[simp] theorem State.setHandshake_env : (s.setHandshake k n).env = s.env := rfl
@[simp] theorem State.setHandshake_draws : (s.setHandshake k n).draws = s.draws := rfl
end setHandshake

section setRx
variable (on : Bool) (q : List Byte)
@[simp] theorem State.setRx_cfg : (s.setRx on q).cfg = s.cfg := rfl
@[simp] theorem State.setRx_mem : (s.setRx on q).mem = s.mem := rfl
@[simp] theorem State.setRx_ctl : (s.setRx on q).ctl = s.ctl := rfl
@[simp] theorem State.setRx_pos : (s.setRx on q).pos = s.pos := rfl
@[simp] theorem State.setRx_todo : (s.setRx on q).todo = s.todo := rfl
@[simp] theorem State.setRx_hsMatched : (s.setRx on q).hsMatched = s.hsMatched := rfl
@[simp] theorem State.setRx_hsBudget : (s.setRx on q).hsBudget = s.hsBudget := rfl
@[simp] theorem State.setRx_rxEnable : (s.setRx on q).rxEnable = on := rfl
@[simp] theorem State.setRx_frMode : (s.setRx on q).frMode = s.frMode := rfl
@[simp] theorem State.setRx_frIdx : (s.setRx on q).frIdx = s.frIdx := rfl
@[simp] theorem State.setRx_buf : (s.setRx on q).buf = s.buf := rfl
@[simp] theorem State.setRx_latchBlk : (s.setRx on q).latchBlk = s.latchBlk := rfl
@[simp] theorem State.setRx_latchMap : (s.setRx on q).latchMap = s.latchMap := rfl
@[simp] theorem State.setRx_nvmBusy : (s.setRx on q).nvmBusy = s.nvmBusy := rfl
@[simp] theorem State.setRx_sv : (s.setRx on q).sv = s.sv := rfl
@[simp] theorem State.setRx_st : (s.setRx on q).st = s.st := rfl
@[simp] theorem State.setRx_dgN : (s.setRx on q).dgN = s.dgN := rfl
@[simp] theorem State.setRx_dgAddr : (s.setRx on q).dgAddr = s.dgAddr := rfl
@[simp] theorem State.setRx_dgRem : (s.setRx on q).dgRem = s.dgRem := rfl
@[simp] theorem State.setRx_chunk : (s.setRx on q).chunk = s.chunk := rfl
@[simp] theorem State.setRx_dgCtx : (s.setRx on q).dgCtx = s.dgCtx := rfl
@[simp] theorem State.setRx_digest : (s.setRx on q).digest = s.digest := rfl
@[simp] theorem State.setRx_sigOk : (s.setRx on q).sigOk = s.sigOk := rfl
@[simp] theorem State.setRx_rxq : (s.setRx on q).rxq = q := rfl
@[simp] theorem State.setRx_txFlight : (s.setRx on q).txFlight = s.txFlight := rfl
@[simp] theorem State.setRx_out : (s.setRx on q).out = s.out := rfl
@[simp] theorem State.setRx_bootFrom : (s.setRx on q).bootFrom = s.bootFrom := rfl
@[simp] theorem State.setRx_unread : (s.setRx on q).unread = s.unread := rfl
@[simp] theorem State.setRx_powered : (s.setRx on q).powered = s.powered := rfl
@[simp] theorem State.setRx_env : (s.setRx on q).env = s.env := rfl
@[simp] theorem State.setRx_draws : (s.setRx on q).draws = s.draws := rfl
end setRx

section setFramer
variable (mode : FramerMode) (i : Nat) (bs : List Byte)
@[simp] theorem State.setFramer_cfg : (s.setFramer mode i bs).cfg = s.cfg := rfl
@[simp] theorem State.setFramer_mem : (s.setFramer mode i bs).mem = s.mem := rfl
@[simp] theorem State.setFramer_ctl : (s.setFramer mode i bs).ctl = s.ctl := rfl
@[simp] theorem State.setFramer_pos : (s.setFramer mode i bs).pos = s.pos := rfl
@[simp] theorem State.setFramer_todo : (s.setFramer mode i bs).todo = s.todo := rfl
@[simp] theorem State.setFramer_hsMatched : (s.setFramer mode i bs).hsMatched = s.hsMatched := rfl
@[simp] theorem State.setFramer_hsBudget : (s.setFramer mode i bs).hsBudget = s.hsBudget := rfl
@[simp] theorem State.setFramer_rxEnable : (s.setFramer mode i bs).rxEnable = s.rxEnable := rfl
@[simp] theorem State.setFramer_frMode : (s.setFramer mode i bs).frMode = mode := rfl
@[simp] theorem State.setFramer_frIdx : (s.setFramer mode i bs).frIdx = i := rfl
@[simp] theorem State.setFramer_buf : (s.setFramer mode i bs).buf = bs := rfl
@[simp] theorem State.setFramer_latchBlk : (s.setFramer mode i bs).latchBlk = s.latchBlk := rfl
@[simp] theorem State.setFramer_latchMap : (s.setFramer mode i bs).latchMap = s.latchMap := rfl
@[simp] theorem State.setFramer_nvmBusy : (s.setFramer mode i bs).nvmBusy = s.nvmBusy := rfl
@[simp] theorem State.setFramer_sv : (s.setFramer mode i bs).sv = s.sv := rfl
@[simp] theorem State.setFramer_st : (s.setFramer mode i bs).st = s.st := rfl
@[simp] theorem State.setFramer_dgN : (s.setFramer mode i bs).dgN = s.dgN := rfl
@[simp] theorem State.setFramer_dgAddr : (s.setFramer mode i bs).dgAddr = s.dgAddr := rfl
@[simp] theorem State.setFramer_dgRem : (s.setFramer mode i bs).dgRem = s.dgRem := rfl
@[simp] theorem State.setFramer_chunk : (s.setFramer mode i bs).chunk = s.chunk := rfl
@[simp] theorem State.setFramer_dgCtx : (s.setFramer mode i bs).dgCtx = s.dgCtx := rfl
@[simp] theorem State.setFramer_digest : (s.setFramer mode i bs).digest = s.digest := rfl
@[simp] theorem State.setFramer_sigOk : (s.setFramer mode i bs).sigOk = s.sigOk := rfl
@[simp] theorem State.setFramer_rxq : (s.setFramer mode i bs).rxq = s.rxq := rfl
@[simp] theorem State.setFramer_txFlight : (s.setFramer mode i bs).txFlight = s.txFlight := rfl
@[simp] theorem State.setFramer_out : (s.setFramer mode i bs).out = s.out := rfl
@[simp] theorem State.setFramer_bootFrom : (s.setFramer mode i bs).bootFrom = s.bootFrom := rfl
@[simp] theorem State.setFramer_unread : (s.setFramer mode i bs).unread = s.unread := rfl
@[simp] theorem State.setFramer_powered : (s.setFramer mode i bs).powered = s.powered := rfl
@[simp] theorem State.setFramer_env : (s.setFramer mode i bs).env = s.env := rfl
@[simp] theorem State.setFramer_draws : (s.setFramer mode i bs).draws = s.draws := rfl
end setFramer

section setLatch
variable (blk : Option Nat) (cells : List Host.Cell)
@[simp] theorem State.setLatch_cfg : (s.setLatch blk cells).cfg = s.cfg := rfl
@[simp] theorem State.setLatch_mem : (s.setLatch blk cells).mem = s.mem := rfl
@[simp] theorem State.setLatch_ctl : (s.setLatch blk cells).ctl = s.ctl := rfl
@[simp] theorem State.setLatch_pos : (s.setLatch blk cells).pos = s.pos := rfl
@[simp] theorem State.setLatch_todo : (s.setLatch blk cells).todo = s.todo := rfl
@[simp] theorem State.setLatch_hsMatched : (s.setLatch blk cells).hsMatched = s.hsMatched := rfl
@[simp] theorem State.setLatch_hsBudget : (s.setLatch blk cells).hsBudget = s.hsBudget := rfl
@[simp] theorem State.setLatch_rxEnable : (s.setLatch blk cells).rxEnable = s.rxEnable := rfl
@[simp] theorem State.setLatch_frMode : (s.setLatch blk cells).frMode = s.frMode := rfl
@[simp] theorem State.setLatch_frIdx : (s.setLatch blk cells).frIdx = s.frIdx := rfl
@[simp] theorem State.setLatch_buf : (s.setLatch blk cells).buf = s.buf := rfl
@[simp] theorem State.setLatch_latchBlk : (s.setLatch blk cells).latchBlk = blk := rfl
@[simp] theorem State.setLatch_latchMap : (s.setLatch blk cells).latchMap = cells := rfl
@[simp] theorem State.setLatch_nvmBusy : (s.setLatch blk cells).nvmBusy = s.nvmBusy := rfl
@[simp] theorem State.setLatch_sv : (s.setLatch blk cells).sv = s.sv := rfl
@[simp] theorem State.setLatch_st : (s.setLatch blk cells).st = s.st := rfl
@[simp] theorem State.setLatch_dgN : (s.setLatch blk cells).dgN = s.dgN := rfl
@[simp] theorem State.setLatch_dgAddr : (s.setLatch blk cells).dgAddr = s.dgAddr := rfl
@[simp] theorem State.setLatch_dgRem : (s.setLatch blk cells).dgRem = s.dgRem := rfl
@[simp] theorem State.setLatch_chunk : (s.setLatch blk cells).chunk = s.chunk := rfl
@[simp] theorem State.setLatch_dgCtx : (s.setLatch blk cells).dgCtx = s.dgCtx := rfl
@[simp] theorem State.setLatch_digest : (s.setLatch blk cells).digest = s.digest := rfl
@[simp] theorem State.setLatch_sigOk : (s.setLatch blk cells).sigOk = s.sigOk := rfl
@[simp] theorem State.setLatch_rxq : (s.setLatch blk cells).rxq = s.rxq := rfl
@[simp] theorem State.setLatch_txFlight : (s.setLatch blk cells).txFlight = s.txFlight := rfl
@[simp] theorem State.setLatch_out : (s.setLatch blk cells).out = s.out := rfl
@[simp] theorem State.setLatch_bootFrom : (s.setLatch blk cells).bootFrom = s.bootFrom := rfl
@[simp] theorem State.setLatch_unread : (s.setLatch blk cells).unread = s.unread := rfl
@[simp] theorem State.setLatch_powered : (s.setLatch blk cells).powered = s.powered := rfl
@[simp] theorem State.setLatch_env : (s.setLatch blk cells).env = s.env := rfl
@[simp] theorem State.setLatch_draws : (s.setLatch blk cells).draws = s.draws := rfl
end setLatch

section setBusy
variable (b : NvmBusy)
@[simp] theorem State.setBusy_cfg : (s.setBusy b).cfg = s.cfg := rfl
@[simp] theorem State.setBusy_mem : (s.setBusy b).mem = s.mem := rfl
@[simp] theorem State.setBusy_ctl : (s.setBusy b).ctl = s.ctl := rfl
@[simp] theorem State.setBusy_pos : (s.setBusy b).pos = s.pos := rfl
@[simp] theorem State.setBusy_todo : (s.setBusy b).todo = s.todo := rfl
@[simp] theorem State.setBusy_hsMatched : (s.setBusy b).hsMatched = s.hsMatched := rfl
@[simp] theorem State.setBusy_hsBudget : (s.setBusy b).hsBudget = s.hsBudget := rfl
@[simp] theorem State.setBusy_rxEnable : (s.setBusy b).rxEnable = s.rxEnable := rfl
@[simp] theorem State.setBusy_frMode : (s.setBusy b).frMode = s.frMode := rfl
@[simp] theorem State.setBusy_frIdx : (s.setBusy b).frIdx = s.frIdx := rfl
@[simp] theorem State.setBusy_buf : (s.setBusy b).buf = s.buf := rfl
@[simp] theorem State.setBusy_latchBlk : (s.setBusy b).latchBlk = s.latchBlk := rfl
@[simp] theorem State.setBusy_latchMap : (s.setBusy b).latchMap = s.latchMap := rfl
@[simp] theorem State.setBusy_nvmBusy : (s.setBusy b).nvmBusy = b := rfl
@[simp] theorem State.setBusy_sv : (s.setBusy b).sv = s.sv := rfl
@[simp] theorem State.setBusy_st : (s.setBusy b).st = s.st := rfl
@[simp] theorem State.setBusy_dgN : (s.setBusy b).dgN = s.dgN := rfl
@[simp] theorem State.setBusy_dgAddr : (s.setBusy b).dgAddr = s.dgAddr := rfl
@[simp] theorem State.setBusy_dgRem : (s.setBusy b).dgRem = s.dgRem := rfl
@[simp] theorem State.setBusy_chunk : (s.setBusy b).chunk = s.chunk := rfl
@[simp] theorem State.setBusy_dgCtx : (s.setBusy b).dgCtx = s.dgCtx := rfl
@[simp] theorem State.setBusy_digest : (s.setBusy b).digest = s.digest := rfl
@[simp] theorem State.setBusy_sigOk : (s.setBusy b).sigOk = s.sigOk := rfl
@[simp] theorem State.setBusy_rxq : (s.setBusy b).rxq = s.rxq := rfl
@[simp] theorem State.setBusy_txFlight : (s.setBusy b).txFlight = s.txFlight := rfl
@[simp] theorem State.setBusy_out : (s.setBusy b).out = s.out := rfl
@[simp] theorem State.setBusy_bootFrom : (s.setBusy b).bootFrom = s.bootFrom := rfl
@[simp] theorem State.setBusy_unread : (s.setBusy b).unread = s.unread := rfl
@[simp] theorem State.setBusy_powered : (s.setBusy b).powered = s.powered := rfl
@[simp] theorem State.setBusy_env : (s.setBusy b).env = s.env := rfl
@[simp] theorem State.setBusy_draws : (s.setBusy b).draws = s.draws := rfl
end setBusy

section setSv
variable (v : List Byte)
@[simp] theorem State.setSv_cfg : (s.setSv v).cfg = s.cfg := rfl
@[simp] theorem State.setSv_mem : (s.setSv v).mem = s.mem := rfl
@[simp] theorem State.setSv_ctl : (s.setSv v).ctl = s.ctl := rfl
@[simp] theorem State.setSv_pos : (s.setSv v).pos = s.pos := rfl
@[simp] theorem State.setSv_todo : (s.setSv v).todo = s.todo := rfl
@[simp] theorem State.setSv_hsMatched : (s.setSv v).hsMatched = s.hsMatched := rfl
@[simp] theorem State.setSv_hsBudget : (s.setSv v).hsBudget = s.hsBudget := rfl
@[simp] theorem State.setSv_rxEnable : (s.setSv v).rxEnable = s.rxEnable := rfl
@[simp] theorem State.setSv_frMode : (s.setSv v).frMode = s.frMode := rfl
@[simp] theorem State.setSv_frIdx : (s.setSv v).frIdx = s.frIdx := rfl
@[simp] theorem State.setSv_buf : (s.setSv v).buf = s.buf := rfl
@[simp] theorem State.setSv_latchBlk : (s.setSv v).latchBlk = s.latchBlk := rfl
@[simp] theorem State.setSv_latchMap : (s.setSv v).latchMap = s.latchMap := rfl
@[simp] theorem State.setSv_nvmBusy : (s.setSv v).nvmBusy = s.nvmBusy := rfl
@[simp] theorem State.setSv_sv : (s.setSv v).sv = v := rfl
@[simp] theorem State.setSv_st : (s.setSv v).st = s.st := rfl
@[simp] theorem State.setSv_dgN : (s.setSv v).dgN = s.dgN := rfl
@[simp] theorem State.setSv_dgAddr : (s.setSv v).dgAddr = s.dgAddr := rfl
@[simp] theorem State.setSv_dgRem : (s.setSv v).dgRem = s.dgRem := rfl
@[simp] theorem State.setSv_chunk : (s.setSv v).chunk = s.chunk := rfl
@[simp] theorem State.setSv_dgCtx : (s.setSv v).dgCtx = s.dgCtx := rfl
@[simp] theorem State.setSv_digest : (s.setSv v).digest = s.digest := rfl
@[simp] theorem State.setSv_sigOk : (s.setSv v).sigOk = s.sigOk := rfl
@[simp] theorem State.setSv_rxq : (s.setSv v).rxq = s.rxq := rfl
@[simp] theorem State.setSv_txFlight : (s.setSv v).txFlight = s.txFlight := rfl
@[simp] theorem State.setSv_out : (s.setSv v).out = s.out := rfl
@[simp] theorem State.setSv_bootFrom : (s.setSv v).bootFrom = s.bootFrom := rfl
@[simp] theorem State.setSv_unread : (s.setSv v).unread = s.unread := rfl
@[simp] theorem State.setSv_powered : (s.setSv v).powered = s.powered := rfl
@[simp] theorem State.setSv_env : (s.setSv v).env = s.env := rfl
@[simp] theorem State.setSv_draws : (s.setSv v).draws = s.draws := rfl
end setSv

section setStatus
variable (st : Status)
@[simp] theorem State.setStatus_cfg : (s.setStatus st).cfg = s.cfg := rfl
@[simp] theorem State.setStatus_mem : (s.setStatus st).mem = s.mem := rfl
@[simp] theorem State.setStatus_ctl : (s.setStatus st).ctl = s.ctl := rfl
@[simp] theorem State.setStatus_pos : (s.setStatus st).pos = s.pos := rfl
@[simp] theorem State.setStatus_todo : (s.setStatus st).todo = s.todo := rfl
@[simp] theorem State.setStatus_hsMatched : (s.setStatus st).hsMatched = s.hsMatched := rfl
@[simp] theorem State.setStatus_hsBudget : (s.setStatus st).hsBudget = s.hsBudget := rfl
@[simp] theorem State.setStatus_rxEnable : (s.setStatus st).rxEnable = s.rxEnable := rfl
@[simp] theorem State.setStatus_frMode : (s.setStatus st).frMode = s.frMode := rfl
@[simp] theorem State.setStatus_frIdx : (s.setStatus st).frIdx = s.frIdx := rfl
@[simp] theorem State.setStatus_buf : (s.setStatus st).buf = s.buf := rfl
@[simp] theorem State.setStatus_latchBlk : (s.setStatus st).latchBlk = s.latchBlk := rfl
@[simp] theorem State.setStatus_latchMap : (s.setStatus st).latchMap = s.latchMap := rfl
@[simp] theorem State.setStatus_nvmBusy : (s.setStatus st).nvmBusy = s.nvmBusy := rfl
@[simp] theorem State.setStatus_sv : (s.setStatus st).sv = s.sv := rfl
@[simp] theorem State.setStatus_st : (s.setStatus st).st = st := rfl
@[simp] theorem State.setStatus_dgN : (s.setStatus st).dgN = s.dgN := rfl
@[simp] theorem State.setStatus_dgAddr : (s.setStatus st).dgAddr = s.dgAddr := rfl
@[simp] theorem State.setStatus_dgRem : (s.setStatus st).dgRem = s.dgRem := rfl
@[simp] theorem State.setStatus_chunk : (s.setStatus st).chunk = s.chunk := rfl
@[simp] theorem State.setStatus_dgCtx : (s.setStatus st).dgCtx = s.dgCtx := rfl
@[simp] theorem State.setStatus_digest : (s.setStatus st).digest = s.digest := rfl
@[simp] theorem State.setStatus_sigOk : (s.setStatus st).sigOk = s.sigOk := rfl
@[simp] theorem State.setStatus_rxq : (s.setStatus st).rxq = s.rxq := rfl
@[simp] theorem State.setStatus_txFlight : (s.setStatus st).txFlight = s.txFlight := rfl
@[simp] theorem State.setStatus_out : (s.setStatus st).out = s.out := rfl
@[simp] theorem State.setStatus_bootFrom : (s.setStatus st).bootFrom = s.bootFrom := rfl
@[simp] theorem State.setStatus_unread : (s.setStatus st).unread = s.unread := rfl
@[simp] theorem State.setStatus_powered : (s.setStatus st).powered = s.powered := rfl
@[simp] theorem State.setStatus_env : (s.setStatus st).env = s.env := rfl
@[simp] theorem State.setStatus_draws : (s.setStatus st).draws = s.draws := rfl
end setStatus

section setSize
variable (n : Nat)
@[simp] theorem State.setSize_cfg : (s.setSize n).cfg = s.cfg := rfl
@[simp] theorem State.setSize_mem : (s.setSize n).mem = s.mem := rfl
@[simp] theorem State.setSize_ctl : (s.setSize n).ctl = s.ctl := rfl
@[simp] theorem State.setSize_pos : (s.setSize n).pos = s.pos := rfl
@[simp] theorem State.setSize_todo : (s.setSize n).todo = s.todo := rfl
@[simp] theorem State.setSize_hsMatched : (s.setSize n).hsMatched = s.hsMatched := rfl
@[simp] theorem State.setSize_hsBudget : (s.setSize n).hsBudget = s.hsBudget := rfl
@[simp] theorem State.setSize_rxEnable : (s.setSize n).rxEnable = s.rxEnable := rfl
@[simp] theorem State.setSize_frMode : (s.setSize n).frMode = s.frMode := rfl
@[simp] theorem State.setSize_frIdx : (s.setSize n).frIdx = s.frIdx := rfl
@[simp] theorem State.setSize_buf : (s.setSize n).buf = s.buf := rfl
@[simp] theorem State.setSize_latchBlk : (s.setSize n).latchBlk = s.latchBlk := rfl
@[simp] theorem State.setSize_latchMap : (s.setSize n).latchMap = s.latchMap := rfl
@[simp] theorem State.setSize_nvmBusy : (s.setSize n).nvmBusy = s.nvmBusy := rfl
@[simp] theorem State.setSize_sv : (s.setSize n).sv = s.sv := rfl
@[simp] theorem State.setSize_st : (s.setSize n).st = s.st := rfl
@[simp] theorem State.setSize_dgN : (s.setSize n).dgN = n := rfl
@[simp] theorem State.setSize_dgAddr : (s.setSize n).dgAddr = s.dgAddr := rfl
@[simp] theorem State.setSize_dgRem : (s.setSize n).dgRem = s.dgRem := rfl
@[simp] theorem State.setSize_chunk : (s.setSize n).chunk = s.chunk := rfl
@[simp] theorem State.setSize_dgCtx : (s.setSize n).dgCtx = s.dgCtx := rfl
@[simp] theorem State.setSize_digest : (s.setSize n).digest = s.digest := rfl
@[simp] theorem State.setSize_sigOk : (s.setSize n).sigOk = s.sigOk := rfl
@[simp] theorem State.setSize_rxq : (s.setSize n).rxq = s.rxq := rfl
@[simp] theorem State.setSize_txFlight : (s.setSize n).txFlight = s.txFlight := rfl
@[simp] theorem State.setSize_out : (s.setSize n).out = s.out := rfl
@[simp] theorem State.setSize_bootFrom : (s.setSize n).bootFrom = s.bootFrom := rfl
@[simp] theorem State.setSize_unread : (s.setSize n).unread = s.unread := rfl
@[simp] theorem State.setSize_powered : (s.setSize n).powered = s.powered := rfl
@[simp] theorem State.setSize_env : (s.setSize n).env = s.env := rfl
@[simp] theorem State.setSize_draws : (s.setSize n).draws = s.draws := rfl
end setSize

section setHash
variable (a n : Nat) (c : List Byte) (x : HashCtx)
@[simp] theorem State.setHash_cfg : (s.setHash a n c x).cfg = s.cfg := rfl
@[simp] theorem State.setHash_mem : (s.setHash a n c x).mem = s.mem := rfl
@[simp] theorem State.setHash_ctl : (s.setHash a n c x).ctl = s.ctl := rfl
@[simp] theorem State.setHash_pos : (s.setHash a n c x).pos = s.pos := rfl
@[simp] theorem State.setHash_todo : (s.setHash a n c x).todo = s.todo := rfl
@[simp] theorem State.setHash_hsMatched : (s.setHash a n c x).hsMatched = s.hsMatched := rfl
@[simp] theorem State.setHash_hsBudget : (s.setHash a n c x).hsBudget = s.hsBudget := rfl
@[simp] theorem State.setHash_rxEnable : (s.setHash a n c x).rxEnable = s.rxEnable := rfl
@[simp] theorem State.setHash_frMode : (s.setHash a n c x).frMode = s.frMode := rfl
@[simp] theorem State.setHash_frIdx : (s.setHash a n c x).frIdx = s.frIdx := rfl
@[simp] theorem State.setHash_buf : (s.setHash a n c x).buf = s.buf := rfl
@[simp] theorem State.setHash_latchBlk : (s.setHash a n c x).latchBlk = s.latchBlk := rfl
@[simp] theorem State.setHash_latchMap : (s.setHash a n c x).latchMap = s.latchMap := rfl
@[simp] theorem State.setHash_nvmBusy : (s.setHash a n c x).nvmBusy = s.nvmBusy := rfl
@[simp] theorem State.setHash_sv : (s.setHash a n c x).sv = s.sv := rfl
@[simp] theorem State.setHash_st : (s.setHash a n c x).st = s.st := rfl
@[simp] theorem State.setHash_dgN : (s.setHash a n c x).dgN = s.dgN := rfl
@[simp] theorem State.setHash_dgAddr : (s.setHash a n c x).dgAddr = a := rfl
@[simp] theorem State.setHash_dgRem : (s.setHash a n c x).dgRem = n := rfl
@[simp] theorem State.setHash_chunk : (s.setHash a n c x).chunk = c := rfl
@[simp] theorem State.setHash_dgCtx : (s.setHash a n c x).dgCtx = x := rfl
@[simp] theorem State.setHash_digest : (s.setHash a n c x).digest = s.digest := rfl
@[simp] theorem State.setHash_sigOk : (s.setHash a n c x).sigOk = s.sigOk := rfl
@[simp] theorem State.setHash_rxq : (s.setHash a n c x).rxq = s.rxq := rfl
@[simp] theorem State.setHash_txFlight : (s.setHash a n c x).txFlight = s.txFlight := rfl
@[simp] theorem State.setHash_out : (s.setHash a n c x).out = s.out := rfl
@[simp] theorem State.setHash_bootFrom : (s.setHash a n c x).bootFrom = s.bootFrom := rfl
@[simp] theorem State.setHash_unread : (s.setHash a n c x).unread = s.unread := rfl
@[simp] theorem State.setHash_powered : (s.setHash a n c x).powered = s.powered := rfl
@[simp] theorem State.setHash_env : (s.setHash a n c x).env = s.env := rfl
@[simp] theorem State.setHash_draws : (s.setHash a n c x).draws = s.draws := rfl
end setHash

section setDigest
variable (d : List Byte)
@[simp] theorem State.setDigest_cfg : (s.setDigest d).cfg = s.cfg := rfl
@[simp] theorem State.setDigest_mem : (s.setDigest d).mem = s.mem := rfl
@[simp] theorem State.setDigest_ctl : (s.setDigest d).ctl = s.ctl := rfl
@[simp] theorem State.setDigest_pos : (s.setDigest d).pos = s.pos := rfl
@[simp] theorem State.setDigest_todo : (s.setDigest d).todo = s.todo := rfl
@[simp] theorem State.setDigest_hsMatched : (s.setDigest d).hsMatched = s.hsMatched := rfl
@[simp] theorem State.setDigest_hsBudget : (s.setDigest d).hsBudget = s.hsBudget := rfl
@[simp] theorem State.setDigest_rxEnable : (s.setDigest d).rxEnable = s.rxEnable := rfl
@[simp] theorem State.setDigest_frMode : (s.setDigest d).frMode = s.frMode := rfl
@[simp] theorem State.setDigest_frIdx : (s.setDigest d).frIdx = s.frIdx := rfl
@[simp] theorem State.setDigest_buf : (s.setDigest d).buf = s.buf := rfl
@[simp] theorem State.setDigest_latchBlk : (s.setDigest d).latchBlk = s.latchBlk := rfl
@[simp] theorem State.setDigest_latchMap : (s.setDigest d).latchMap = s.latchMap := rfl
@[simp] theorem State.setDigest_nvmBusy : (s.setDigest d).nvmBusy = s.nvmBusy := rfl
@[simp] theorem State.setDigest_sv : (s.setDigest d).sv = s.sv := rfl
@[simp] theorem State.setDigest_st : (s.setDigest d).st = s.st := rfl
@[simp] theorem State.setDigest_dgN : (s.setDigest d).dgN = s.dgN := rfl
@[simp] theorem State.setDigest_dgAddr : (s.setDigest d).dgAddr = s.dgAddr := rfl
@[simp] theorem State.setDigest_dgRem : (s.setDigest d).dgRem = s.dgRem := rfl
@[simp] theorem State.setDigest_chunk : (s.setDigest d).chunk = s.chunk := rfl
@[simp] theorem State.setDigest_dgCtx : (s.setDigest d).dgCtx = s.dgCtx := rfl
@[simp] theorem State.setDigest_digest : (s.setDigest d).digest = d := rfl
@[simp] theorem State.setDigest_sigOk : (s.setDigest d).sigOk = s.sigOk := rfl
@[simp] theorem State.setDigest_rxq : (s.setDigest d).rxq = s.rxq := rfl
@[simp] theorem State.setDigest_txFlight : (s.setDigest d).txFlight = s.txFlight := rfl
@[simp] theorem State.setDigest_out : (s.setDigest d).out = s.out := rfl
@[simp] theorem State.setDigest_bootFrom : (s.setDigest d).bootFrom = s.bootFrom := rfl
@[simp] theorem State.setDigest_unread : (s.setDigest d).unread = s.unread := rfl
@[simp] theorem State.setDigest_powered : (s.setDigest d).powered = s.powered := rfl
@[simp] theorem State.setDigest_env : (s.setDigest d).env = s.env := rfl
@[simp] theorem State.setDigest_draws : (s.setDigest d).draws = s.draws := rfl
end setDigest

section setVerdict
variable (ok : Bool)
@[simp] theorem State.setVerdict_cfg : (s.setVerdict ok).cfg = s.cfg := rfl
@[simp] theorem State.setVerdict_mem : (s.setVerdict ok).mem = s.mem := rfl
@[simp] theorem State.setVerdict_ctl : (s.setVerdict ok).ctl = s.ctl := rfl
@[simp] theorem State.setVerdict_pos : (s.setVerdict ok).pos = s.pos := rfl
@[simp] theorem State.setVerdict_todo : (s.setVerdict ok).todo = s.todo := rfl
@[simp] theorem State.setVerdict_hsMatched : (s.setVerdict ok).hsMatched = s.hsMatched := rfl
@[simp] theorem State.setVerdict_hsBudget : (s.setVerdict ok).hsBudget = s.hsBudget := rfl
@[simp] theorem State.setVerdict_rxEnable : (s.setVerdict ok).rxEnable = s.rxEnable := rfl
@[simp] theorem State.setVerdict_frMode : (s.setVerdict ok).frMode = s.frMode := rfl
@[simp] theorem State.setVerdict_frIdx : (s.setVerdict ok).frIdx = s.frIdx := rfl
@[simp] theorem State.setVerdict_buf : (s.setVerdict ok).buf = s.buf := rfl
@[simp] theorem State.setVerdict_latchBlk : (s.setVerdict ok).latchBlk = s.latchBlk := rfl
@[simp] theorem State.setVerdict_latchMap : (s.setVerdict ok).latchMap = s.latchMap := rfl
@[simp] theorem State.setVerdict_nvmBusy : (s.setVerdict ok).nvmBusy = s.nvmBusy := rfl
@[simp] theorem State.setVerdict_sv : (s.setVerdict ok).sv = s.sv := rfl
@[simp] theorem State.setVerdict_st : (s.setVerdict ok).st = s.st := rfl
@[simp] theorem State.setVerdict_dgN : (s.setVerdict ok).dgN = s.dgN := rfl
@[simp] theorem State.setVerdict_dgAddr : (s.setVerdict ok).dgAddr = s.dgAddr := rfl
@[simp] theorem State.setVerdict_dgRem : (s.setVerdict ok).dgRem = s.dgRem := rfl
@[simp] theorem State.setVerdict_chunk : (s.setVerdict ok).chunk = s.chunk := rfl
@[simp] theorem State.setVerdict_dgCtx : (s.setVerdict ok).dgCtx = s.dgCtx := rfl
@[simp] theorem State.setVerdict_digest : (s.setVerdict ok).digest = s.digest := rfl
@[simp] theorem State.setVerdict_sigOk : (s.setVerdict ok).sigOk = ok := rfl
@[simp] theorem State.setVerdict_rxq : (s.setVerdict ok).rxq = s.rxq := rfl
@[simp] theorem State.setVerdict_txFlight : (s.setVerdict ok).txFlight = s.txFlight := rfl
@[simp] theorem State.setVerdict_out : (s.setVerdict ok).out = s.out := rfl
@[simp] theorem State.setVerdict_bootFrom : (s.setVerdict ok).bootFrom = s.bootFrom := rfl
@[simp] theorem State.setVerdict_unread : (s.setVerdict ok).unread = s.unread := rfl
@[simp] theorem State.setVerdict_powered : (s.setVerdict ok).powered = s.powered := rfl
@[simp] theorem State.setVerdict_env : (s.setVerdict ok).env = s.env := rfl
@[simp] theorem State.setVerdict_draws : (s.setVerdict ok).draws = s.draws := rfl
end setVerdict

section setFlight
variable (b : Option Byte)
@[simp] theorem State.setFlight_cfg : (s.setFlight b).cfg = s.cfg := rfl
@[simp] theorem State.setFlight_mem : (s.setFlight b).mem = s.mem := rfl
@[simp] theorem State.setFlight_ctl : (s.setFlight b).ctl = s.ctl := rfl
@[simp] theorem State.setFlight_pos : (s.setFlight b).pos = s.pos := rfl
@[simp] theorem State.setFlight_todo : (s.setFlight b).todo = s.todo := rfl
@[simp] theorem State.setFlight_hsMatched : (s.setFlight b).hsMatched = s.hsMatched := rfl
@[simp] theorem State.setFlight_hsBudget : (s.setFlight b).hsBudget = s.hsBudget := rfl
@[simp] theorem State.setFlight_rxEnable : (s.setFlight b).rxEnable = s.rxEnable := rfl
@[simp] theorem State.setFlight_frMode : (s.setFlight b).frMode = s.frMode := rfl
@[simp] theorem State.setFlight_frIdx : (s.setFlight b).frIdx = s.frIdx := rfl
@[simp] theorem State.setFlight_buf : (s.setFlight b).buf = s.buf := rfl
@[simp] theorem State.setFlight_latchBlk : (s.setFlight b).latchBlk = s.latchBlk := rfl
@[simp] theorem State.setFlight_latchMap : (s.setFlight b).latchMap = s.latchMap := rfl
@[simp] theorem State.setFlight_nvmBusy : (s.setFlight b).nvmBusy = s.nvmBusy := rfl
@[simp] theorem State.setFlight_sv : (s.setFlight b).sv = s.sv := rfl
@[simp] theorem State.setFlight_st : (s.setFlight b).st = s.st := rfl
@[simp] theorem State.setFlight_dgN : (s.setFlight b).dgN = s.dgN := rfl
@[simp] theorem State.setFlight_dgAddr : (s.setFlight b).dgAddr = s.dgAddr := rfl
@[simp] theorem State.setFlight_dgRem : (s.setFlight b).dgRem = s.dgRem := rfl
@[simp] theorem State.setFlight_chunk : (s.setFlight b).chunk = s.chunk := rfl
@[simp] theorem State.setFlight_dgCtx : (s.setFlight b).dgCtx = s.dgCtx := rfl
@[simp] theorem State.setFlight_digest : (s.setFlight b).digest = s.digest := rfl
@[simp] theorem State.setFlight_sigOk : (s.setFlight b).sigOk = s.sigOk := rfl
@[simp] theorem State.setFlight_rxq : (s.setFlight b).rxq = s.rxq := rfl
@[simp] theorem State.setFlight_txFlight : (s.setFlight b).txFlight = b := rfl
@[simp] theorem State.setFlight_out : (s.setFlight b).out = s.out := rfl
@[simp] theorem State.setFlight_bootFrom : (s.setFlight b).bootFrom = s.bootFrom := rfl
@[simp] theorem State.setFlight_unread : (s.setFlight b).unread = s.unread := rfl
@[simp] theorem State.setFlight_powered : (s.setFlight b).powered = s.powered := rfl
@[simp] theorem State.setFlight_env : (s.setFlight b).env = s.env := rfl
@[simp] theorem State.setFlight_draws : (s.setFlight b).draws = s.draws := rfl
end setFlight

section setOut
variable (o : List Output) (n : Nat)
@[simp] theorem State.setOut_cfg : (s.setOut o n).cfg = s.cfg := rfl
@[simp] theorem State.setOut_mem : (s.setOut o n).mem = s.mem := rfl
@[simp] theorem State.setOut_ctl : (s.setOut o n).ctl = s.ctl := rfl
@[simp] theorem State.setOut_pos : (s.setOut o n).pos = s.pos := rfl
@[simp] theorem State.setOut_todo : (s.setOut o n).todo = s.todo := rfl
@[simp] theorem State.setOut_hsMatched : (s.setOut o n).hsMatched = s.hsMatched := rfl
@[simp] theorem State.setOut_hsBudget : (s.setOut o n).hsBudget = s.hsBudget := rfl
@[simp] theorem State.setOut_rxEnable : (s.setOut o n).rxEnable = s.rxEnable := rfl
@[simp] theorem State.setOut_frMode : (s.setOut o n).frMode = s.frMode := rfl
@[simp] theorem State.setOut_frIdx : (s.setOut o n).frIdx = s.frIdx := rfl
@[simp] theorem State.setOut_buf : (s.setOut o n).buf = s.buf := rfl
@[simp] theorem State.setOut_latchBlk : (s.setOut o n).latchBlk = s.latchBlk := rfl
@[simp] theorem State.setOut_latchMap : (s.setOut o n).latchMap = s.latchMap := rfl
@[simp] theorem State.setOut_nvmBusy : (s.setOut o n).nvmBusy = s.nvmBusy := rfl
@[simp] theorem State.setOut_sv : (s.setOut o n).sv = s.sv := rfl
@[simp] theorem State.setOut_st : (s.setOut o n).st = s.st := rfl
@[simp] theorem State.setOut_dgN : (s.setOut o n).dgN = s.dgN := rfl
@[simp] theorem State.setOut_dgAddr : (s.setOut o n).dgAddr = s.dgAddr := rfl
@[simp] theorem State.setOut_dgRem : (s.setOut o n).dgRem = s.dgRem := rfl
@[simp] theorem State.setOut_chunk : (s.setOut o n).chunk = s.chunk := rfl
@[simp] theorem State.setOut_dgCtx : (s.setOut o n).dgCtx = s.dgCtx := rfl
@[simp] theorem State.setOut_digest : (s.setOut o n).digest = s.digest := rfl
@[simp] theorem State.setOut_sigOk : (s.setOut o n).sigOk = s.sigOk := rfl
@[simp] theorem State.setOut_rxq : (s.setOut o n).rxq = s.rxq := rfl
@[simp] theorem State.setOut_txFlight : (s.setOut o n).txFlight = s.txFlight := rfl
@[simp] theorem State.setOut_out : (s.setOut o n).out = o := rfl
@[simp] theorem State.setOut_bootFrom : (s.setOut o n).bootFrom = s.bootFrom := rfl
@[simp] theorem State.setOut_unread : (s.setOut o n).unread = n := rfl
@[simp] theorem State.setOut_powered : (s.setOut o n).powered = s.powered := rfl
@[simp] theorem State.setOut_env : (s.setOut o n).env = s.env := rfl
@[simp] theorem State.setOut_draws : (s.setOut o n).draws = s.draws := rfl
end setOut

section setPowered
variable (on : Bool)
@[simp] theorem State.setPowered_cfg : (s.setPowered on).cfg = s.cfg := rfl
@[simp] theorem State.setPowered_mem : (s.setPowered on).mem = s.mem := rfl
@[simp] theorem State.setPowered_ctl : (s.setPowered on).ctl = s.ctl := rfl
@[simp] theorem State.setPowered_pos : (s.setPowered on).pos = s.pos := rfl
@[simp] theorem State.setPowered_todo : (s.setPowered on).todo = s.todo := rfl
@[simp] theorem State.setPowered_hsMatched : (s.setPowered on).hsMatched = s.hsMatched := rfl
@[simp] theorem State.setPowered_hsBudget : (s.setPowered on).hsBudget = s.hsBudget := rfl
@[simp] theorem State.setPowered_rxEnable : (s.setPowered on).rxEnable = s.rxEnable := rfl
@[simp] theorem State.setPowered_frMode : (s.setPowered on).frMode = s.frMode := rfl
@[simp] theorem State.setPowered_frIdx : (s.setPowered on).frIdx = s.frIdx := rfl
@[simp] theorem State.setPowered_buf : (s.setPowered on).buf = s.buf := rfl
@[simp] theorem State.setPowered_latchBlk : (s.setPowered on).latchBlk = s.latchBlk := rfl
@[simp] theorem State.setPowered_latchMap : (s.setPowered on).latchMap = s.latchMap := rfl
@[simp] theorem State.setPowered_nvmBusy : (s.setPowered on).nvmBusy = s.nvmBusy := rfl
@[simp] theorem State.setPowered_sv : (s.setPowered on).sv = s.sv := rfl
@[simp] theorem State.setPowered_st : (s.setPowered on).st = s.st := rfl
@[simp] theorem State.setPowered_dgN : (s.setPowered on).dgN = s.dgN := rfl
@[simp] theorem State.setPowered_dgAddr : (s.setPowered on).dgAddr = s.dgAddr := rfl
@[simp] theorem State.setPowered_dgRem : (s.setPowered on).dgRem = s.dgRem := rfl
@[simp] theorem State.setPowered_chunk : (s.setPowered on).chunk = s.chunk := rfl
@[simp] theorem State.setPowered_dgCtx : (s.setPowered on).dgCtx = s.dgCtx := rfl
@[simp] theorem State.setPowered_digest : (s.setPowered on).digest = s.digest := rfl
@[simp] theorem State.setPowered_sigOk : (s.setPowered on).sigOk = s.sigOk := rfl
@[simp] theorem State.setPowered_rxq : (s.setPowered on).rxq = s.rxq := rfl
@[simp] theorem State.setPowered_txFlight : (s.setPowered on).txFlight = s.txFlight := rfl
@[simp] theorem State.setPowered_out : (s.setPowered on).out = s.out := rfl
@[simp] theorem State.setPowered_bootFrom : (s.setPowered on).bootFrom = s.bootFrom := rfl
@[simp] theorem State.setPowered_unread : (s.setPowered on).unread = s.unread := rfl
@[simp] theorem State.setPowered_powered : (s.setPowered on).powered = on := rfl
@[simp] theorem State.setPowered_env : (s.setPowered on).env = s.env := rfl
@[simp] theorem State.setPowered_draws : (s.setPowered on).draws = s.draws := rfl
end setPowered

section setEnv
variable (e : List Move)
@[simp] theorem State.setEnv_cfg : (s.setEnv e).cfg = s.cfg := rfl
@[simp] theorem State.setEnv_mem : (s.setEnv e).mem = s.mem := rfl
@[simp] theorem State.setEnv_ctl : (s.setEnv e).ctl = s.ctl := rfl
@[simp] theorem State.setEnv_pos : (s.setEnv e).pos = s.pos := rfl
@[simp] theorem State.setEnv_todo : (s.setEnv e).todo = s.todo := rfl
@[simp] theorem State.setEnv_hsMatched : (s.setEnv e).hsMatched = s.hsMatched := rfl
@[simp] theorem State.setEnv_hsBudget : (s.setEnv e).hsBudget = s.hsBudget := rfl
@[simp] theorem State.setEnv_rxEnable : (s.setEnv e).rxEnable = s.rxEnable := rfl
@[simp] theorem State.setEnv_frMode : (s.setEnv e).frMode = s.frMode := rfl
@[simp] theorem State.setEnv_frIdx : (s.setEnv e).frIdx = s.frIdx := rfl
@[simp] theorem State.setEnv_buf : (s.setEnv e).buf = s.buf := rfl
@[simp] theorem State.setEnv_latchBlk : (s.setEnv e).latchBlk = s.latchBlk := rfl
@[simp] theorem State.setEnv_latchMap : (s.setEnv e).latchMap = s.latchMap := rfl
@[simp] theorem State.setEnv_nvmBusy : (s.setEnv e).nvmBusy = s.nvmBusy := rfl
@[simp] theorem State.setEnv_sv : (s.setEnv e).sv = s.sv := rfl
@[simp] theorem State.setEnv_st : (s.setEnv e).st = s.st := rfl
@[simp] theorem State.setEnv_dgN : (s.setEnv e).dgN = s.dgN := rfl
@[simp] theorem State.setEnv_dgAddr : (s.setEnv e).dgAddr = s.dgAddr := rfl
@[simp] theorem State.setEnv_dgRem : (s.setEnv e).dgRem = s.dgRem := rfl
@[simp] theorem State.setEnv_chunk : (s.setEnv e).chunk = s.chunk := rfl
@[simp] theorem State.setEnv_dgCtx : (s.setEnv e).dgCtx = s.dgCtx := rfl
@[simp] theorem State.setEnv_digest : (s.setEnv e).digest = s.digest := rfl
@[simp] theorem State.setEnv_sigOk : (s.setEnv e).sigOk = s.sigOk := rfl
@[simp] theorem State.setEnv_rxq : (s.setEnv e).rxq = s.rxq := rfl
@[simp] theorem State.setEnv_txFlight : (s.setEnv e).txFlight = s.txFlight := rfl
@[simp] theorem State.setEnv_out : (s.setEnv e).out = s.out := rfl
@[simp] theorem State.setEnv_bootFrom : (s.setEnv e).bootFrom = s.bootFrom := rfl
@[simp] theorem State.setEnv_unread : (s.setEnv e).unread = s.unread := rfl
@[simp] theorem State.setEnv_powered : (s.setEnv e).powered = s.powered := rfl
@[simp] theorem State.setEnv_env : (s.setEnv e).env = e := rfl
@[simp] theorem State.setEnv_draws : (s.setEnv e).draws = s.draws := rfl
end setEnv

section setDraws
variable (n : Nat)
@[simp] theorem State.setDraws_cfg : (s.setDraws n).cfg = s.cfg := rfl
@[simp] theorem State.setDraws_mem : (s.setDraws n).mem = s.mem := rfl
@[simp] theorem State.setDraws_ctl : (s.setDraws n).ctl = s.ctl := rfl
@[simp] theorem State.setDraws_pos : (s.setDraws n).pos = s.pos := rfl
@[simp] theorem State.setDraws_todo : (s.setDraws n).todo = s.todo := rfl
@[simp] theorem State.setDraws_hsMatched : (s.setDraws n).hsMatched = s.hsMatched := rfl
@[simp] theorem State.setDraws_hsBudget : (s.setDraws n).hsBudget = s.hsBudget := rfl
@[simp] theorem State.setDraws_rxEnable : (s.setDraws n).rxEnable = s.rxEnable := rfl
@[simp] theorem State.setDraws_frMode : (s.setDraws n).frMode = s.frMode := rfl
@[simp] theorem State.setDraws_frIdx : (s.setDraws n).frIdx = s.frIdx := rfl
@[simp] theorem State.setDraws_buf : (s.setDraws n).buf = s.buf := rfl
@[simp] theorem State.setDraws_latchBlk : (s.setDraws n).latchBlk = s.latchBlk := rfl
@[simp] theorem State.setDraws_latchMap : (s.setDraws n).latchMap = s.latchMap := rfl
@[simp] theorem State.setDraws_nvmBusy : (s.setDraws n).nvmBusy = s.nvmBusy := rfl
@[simp] theorem State.setDraws_sv : (s.setDraws n).sv = s.sv := rfl
@[simp] theorem State.setDraws_st : (s.setDraws n).st = s.st := rfl
@[simp] theorem State.setDraws_dgN : (s.setDraws n).dgN = s.dgN := rfl
@[simp] theorem State.setDraws_dgAddr : (s.setDraws n).dgAddr = s.dgAddr := rfl
@[simp] theorem State.setDraws_dgRem : (s.setDraws n).dgRem = s.dgRem := rfl
@[simp] theorem State.setDraws_chunk : (s.setDraws n).chunk = s.chunk := rfl
@[simp] theorem State.setDraws_dgCtx : (s.setDraws n).dgCtx = s.dgCtx := rfl
@[simp] theorem State.setDraws_digest : (s.setDraws n).digest = s.digest := rfl
@[simp] theorem State.setDraws_sigOk : (s.setDraws n).sigOk = s.sigOk := rfl
@[simp] theorem State.setDraws_rxq : (s.setDraws n).rxq = s.rxq := rfl
@[simp] theorem State.setDraws_txFlight : (s.setDraws n).txFlight = s.txFlight := rfl
@[simp] theorem State.setDraws_out : (s.setDraws n).out = s.out := rfl
@[simp] theorem State.setDraws_bootFrom : (s.setDraws n).bootFrom = s.bootFrom := rfl
@[simp] theorem State.setDraws_unread : (s.setDraws n).unread = s.unread := rfl
@[simp] theorem State.setDraws_powered : (s.setDraws n).powered = s.powered := rfl
@[simp] theorem State.setDraws_env : (s.setDraws n).env = s.env := rfl
@[simp] theorem State.setDraws_draws : (s.setDraws n).draws = n := rfl
end setDraws

/-! ### Power failure and reset -/

@[simp] theorem powerFail_cfg : (powerFail s).cfg = s.cfg := rfl
@[simp] theorem powerFail_mem : (powerFail s).mem = drawCells s.mem s.draws (exposedAddrs s) := rfl
@[simp] theorem powerFail_ctl : (powerFail s).ctl = s.ctl := rfl
@[simp] theorem powerFail_pos : (powerFail s).pos = s.pos := rfl
@[simp] theorem powerFail_todo : (powerFail s).todo = [] := rfl
@[simp] theorem powerFail_hsMatched : (powerFail s).hsMatched = s.hsMatched := rfl
@[simp] theorem powerFail_hsBudget : (powerFail s).hsBudget = s.hsBudget := rfl
@[simp] theorem powerFail_rxEnable : (powerFail s).rxEnable = false := rfl
@[simp] theorem powerFail_frMode : (powerFail s).frMode = s.frMode := rfl
@[simp] theorem powerFail_frIdx : (powerFail s).frIdx = s.frIdx := rfl
@[simp] theorem powerFail_buf : (powerFail s).buf = s.buf := rfl
@[simp] theorem powerFail_latchBlk : (powerFail s).latchBlk = none := rfl
@[simp] theorem powerFail_latchMap : (powerFail s).latchMap = [] := rfl
@[simp] theorem powerFail_nvmBusy : (powerFail s).nvmBusy = .idle := rfl
@[simp] theorem powerFail_sv : (powerFail s).sv = s.sv := rfl
@[simp] theorem powerFail_st : (powerFail s).st = s.st := rfl
@[simp] theorem powerFail_dgN : (powerFail s).dgN = s.dgN := rfl
@[simp] theorem powerFail_dgAddr : (powerFail s).dgAddr = s.dgAddr := rfl
@[simp] theorem powerFail_dgRem : (powerFail s).dgRem = s.dgRem := rfl
@[simp] theorem powerFail_chunk : (powerFail s).chunk = s.chunk := rfl
@[simp] theorem powerFail_dgCtx : (powerFail s).dgCtx = s.dgCtx := rfl
@[simp] theorem powerFail_digest : (powerFail s).digest = s.digest := rfl
@[simp] theorem powerFail_sigOk : (powerFail s).sigOk = s.sigOk := rfl
@[simp] theorem powerFail_rxq : (powerFail s).rxq = [] := rfl
@[simp] theorem powerFail_txFlight : (powerFail s).txFlight = none := rfl
@[simp] theorem powerFail_out : (powerFail s).out = s.out ++ arrived s := rfl
@[simp] theorem powerFail_bootFrom : (powerFail s).bootFrom = s.bootFrom := rfl
@[simp] theorem powerFail_unread : (powerFail s).unread = s.unread + (arrived s).length := rfl
@[simp] theorem powerFail_powered : (powerFail s).powered = false := rfl
@[simp] theorem powerFail_env : (powerFail s).env = s.env := rfl
@[simp] theorem powerFail_draws : (powerFail s).draws = s.draws + (exposedAddrs s).length + 1 := rfl

@[simp] theorem volatileReset_cfg : (volatileReset s).cfg = s.cfg := rfl
@[simp] theorem volatileReset_mem : (volatileReset s).mem = s.mem := rfl
@[simp] theorem volatileReset_ctl : (volatileReset s).ctl = .handshakeWait := rfl
@[simp] theorem volatileReset_pos : (volatileReset s).pos = .entry := rfl
@[simp] theorem volatileReset_todo : (volatileReset s).todo = [] := rfl
@[simp] theorem volatileReset_hsMatched : (volatileReset s).hsMatched = 0 := rfl
@[simp] theorem volatileReset_hsBudget : (volatileReset s).hsBudget = 0 := rfl
@[simp] theorem volatileReset_rxEnable : (volatileReset s).rxEnable = false := rfl
@[simp] theorem volatileReset_frMode : (volatileReset s).frMode = .normal := rfl
@[simp] theorem volatileReset_frIdx : (volatileReset s).frIdx = 0 := rfl
@[simp] theorem volatileReset_buf : (volatileReset s).buf =
    (List.range s.cfg.frameBufSize).map fun i => Config.draw (s.draws + i) := rfl
@[simp] theorem volatileReset_latchBlk : (volatileReset s).latchBlk = none := rfl
@[simp] theorem volatileReset_latchMap : (volatileReset s).latchMap = [] := rfl
@[simp] theorem volatileReset_nvmBusy : (volatileReset s).nvmBusy = .idle := rfl
@[simp] theorem volatileReset_sv : (volatileReset s).sv = List.replicate 4 0#8 := rfl
@[simp] theorem volatileReset_st : (volatileReset s).st = .success := rfl
@[simp] theorem volatileReset_dgN : (volatileReset s).dgN = 0 := rfl
@[simp] theorem volatileReset_dgAddr : (volatileReset s).dgAddr = 0 := rfl
@[simp] theorem volatileReset_dgRem : (volatileReset s).dgRem = 0 := rfl
@[simp] theorem volatileReset_chunk : (volatileReset s).chunk = List.replicate 64 0#8 := rfl
@[simp] theorem volatileReset_dgCtx : (volatileReset s).dgCtx = HashCtx.unwritten := rfl
@[simp] theorem volatileReset_digest : (volatileReset s).digest = List.replicate 32 0#8 := rfl
@[simp] theorem volatileReset_sigOk : (volatileReset s).sigOk = false := rfl
@[simp] theorem volatileReset_rxq : (volatileReset s).rxq = [] := rfl
@[simp] theorem volatileReset_txFlight : (volatileReset s).txFlight = none := rfl
@[simp] theorem volatileReset_out : (volatileReset s).out = s.out := rfl
@[simp] theorem volatileReset_bootFrom : (volatileReset s).bootFrom = s.out.length := rfl
@[simp] theorem volatileReset_unread : (volatileReset s).unread = s.unread := rfl
@[simp] theorem volatileReset_powered : (volatileReset s).powered = true := rfl
@[simp] theorem volatileReset_env : (volatileReset s).env = s.env := rfl
@[simp] theorem volatileReset_draws : (volatileReset s).draws = s.draws + s.cfg.frameBufSize := rfl

@[simp] theorem deliver_out (b : Byte) : (s.deliver b).out = s.out ++ [.byte b] := rfl
@[simp] theorem deliver_unread (b : Byte) : (s.deliver b).unread = s.unread + 1 := rfl

end Sys2Proof.Machine
end

