-- ==== Sys2Proof/Laws/Memory.lean ====
section
/-! SUPPORT. The laws of the NVM array as a list of cells: a read after each of its operations, the canonical form and
the address range, which every operation keeps (R60, R124, R127, R131). -/

namespace Sys2Proof.Machine

/-! ### Cells -/

/-- What `setCell` leaves in a list: the new entry, and every entry of another key. -/
theorem mem_setCell {key : Nat} {v : Byte} {cells : List Host.Cell} {c : Host.Cell} :
    c ∈ setCell key v cells ↔ c = (key, v) ∨ c ∈ cells ∧ c.1 ≠ key := by
  simp only [setCell, List.mem_append, List.mem_cons, List.mem_filter, decide_eq_true_eq]
  have : c.1 ≠ key ↔ c.1 < key ∨ key < c.1 := by omega
  tauto

/-- Rising keys, pair by pair. -/
theorem sorted_iff (cells : List Host.Cell) : cellsSorted cells = true ↔ cells.Pairwise fun low high => low.1 < high.1 := by
  simp only [cellsSorted, decide_eq_true_eq, List.pairwise_map]

theorem setCell_sorted (key : Nat) (v : Byte) {cells : List Host.Cell} (h : cellsSorted cells = true) :
    cellsSorted (setCell key v cells) = true := by
  rw [sorted_iff] at h ⊢
  have low : ∀ c ∈ cells.filter (fun c => c.1 < key), c.1 < key := fun c hc => by simpa using (List.mem_filter.1 hc).2
  have high : ∀ c ∈ cells.filter (fun c => key < c.1), key < c.1 := fun c hc => by simpa using (List.mem_filter.1 hc).2
  exact List.pairwise_append.2 ⟨h.filter _, List.pairwise_cons.2 ⟨high, h.filter _⟩, fun c hc d hd =>
    (List.mem_cons.1 hd).elim (fun he => he ▸ low c hc) fun hd => (low c hc).trans (high d hd)⟩

/-- A key above all others is set at the end: how a WRITE fills the latch. -/
theorem setCell_above {key : Nat} (v : Byte) {cells : List Host.Cell} (h : ∀ c ∈ cells, c.1 < key) :
    setCell key v cells = cells ++ [(key, v)] := by
  rw [setCell, List.filter_eq_self.2 fun c hc => decide_eq_true (h c hc),
    List.filter_eq_nil_iff.2 fun c hc => by simpa using (h c hc).le]

theorem read_append (l r : Memory) (x : Nat) :
    Memory.read (l ++ r) x = if ∃ v, (x, v) ∈ l then l.read x else r.read x := by
  induction l with
  | nil => simp
  | cons cell l ih =>
    by_cases hx : cell.1 = x
    · rw [if_pos ⟨cell.2, by simp [← hx]⟩]
      simp [Memory.read, hx]
    · have hne : ∀ v, (x, v) ≠ cell := fun v hv => hx (by rw [← hv])
      simp [Memory.read, hx, ih, hne]

/-- Reading what is left when the entries of some addresses go. -/
theorem read_filter (keep : Nat → Bool) (m : Memory) (x : Nat) :
    Memory.read (m.filter fun cell => keep cell.1) x = if keep x then m.read x else Memory.unlisted := by
  induction m with
  | nil => exact (ite_self _).symm
  | cons cell m ih =>
    by_cases hk : keep cell.1 = true <;> by_cases hx : cell.1 = x
    · subst hx; simp [Memory.read, hk]
    · simp only [List.filter_cons, hk, if_true, Memory.read, if_neg hx, ih]
    · subst hx; simpa [hk] using ih
    · simpa [hk, Memory.read, hx] using ih

theorem read_setCell (a : Nat) (v : Byte) (m : Memory) (x : Nat) :
    Memory.read (setCell a v m) x = if x = a then v else m.read x := by
  have low := read_filter (fun k => decide (k < a)) m x
  have high := read_filter (fun k => decide (a < k)) m x
  rw [setCell, read_append, low, Memory.read, high]
  by_cases hlow : x < a
  · simp only [List.mem_filter, hlow, decide_true, and_true, if_true, hlow.ne', hlow.ne, if_false]
    split
    · rfl
    · next hnone =>
      rw [if_neg (by simp [hlow.le])]
      clear low high
      induction m with
      | nil => rfl
      | cons cell m ih =>
        have hx : cell.1 ≠ x := fun h => hnone ⟨cell.2, by simp [← h]⟩
        rw [Memory.read, if_neg hx]
        exact ih fun ⟨w, hw⟩ => hnone ⟨w, by simp [hw]⟩
  · rw [if_neg (by simp [hlow])]
    by_cases hx : x = a
    · simp [hx]
    · simp [hx, Ne.symm hx, show a < x by omega]

/-! ### Writing and erasing -/

/-- A read after a write: the value written at its address, the value before everywhere else. -/
theorem read_write (m : Memory) (a : Nat) (v : Byte) (x : Nat) :
    (m.write a v).read x = if x = a then v else m.read x := by
  unfold Memory.write
  split
  · next hv =>
    have h := read_filter (fun k => decide (k ≠ a)) m x
    rw [h, hv]
    by_cases hx : x = a <;> simp [hx]
  · exact read_setCell a v m x

/-- A read after an erase (R127). -/
theorem read_eraseBlock (m : Memory) (k x : Nat) :
    (m.eraseBlock k).read x = if x / 64 = k then erasedByte else m.read x := by
  have h := read_filter (fun a => decide (a / 64 ≠ k)) m x
  rw [Memory.eraseBlock, h]
  by_cases hx : x / 64 = k <;> simp [hx, Memory.unlisted]

/-- The canonical form and the address range, as what holds of the entries. -/
theorem wf_iff (m : Memory) : m.wf = true ↔ cellsSorted m = true ∧ ∀ c ∈ m, c.2 ≠ Memory.unlisted := by
  simp [Memory.wf]

theorem inRange_iff (m : Memory) (n : Nat) : m.inRange n = true ↔ ∀ c ∈ m, c.1 < n := by simp [Memory.inRange]

/-- Reset memory lists nothing, so it is canonical. -/
theorem wf_reset : State.reset.mem.wf = true := rfl

/-- Taking entries out keeps the canonical form. -/
theorem wf_filter (keep : Host.Cell → Bool) {m : Memory} (h : m.wf = true) : Memory.wf (m.filter keep) = true := by
  rw [wf_iff, sorted_iff] at h ⊢
  exact ⟨h.1.filter keep, fun c hc => h.2 c (List.mem_filter.1 hc).1⟩

theorem wf_write {m : Memory} (a : Nat) (v : Byte) (h : m.wf = true) : (m.write a v).wf = true := by
  unfold Memory.write
  split
  · exact wf_filter _ h
  · next hv =>
    have hm := (wf_iff m).1 h
    exact (wf_iff _).2 ⟨setCell_sorted a v hm.1, fun c hc =>
      (mem_setCell.1 hc).elim (fun he => he ▸ hv) fun hold => hm.2 c hold.1⟩

theorem wf_eraseBlock {m : Memory} (k : Nat) (h : m.wf = true) : (m.eraseBlock k).wf = true := wf_filter _ h

theorem inRange_write {m : Memory} {n : Nat} (a : Nat) (v : Byte) (h : m.inRange n = true) (ha : a < n) :
    (m.write a v).inRange n = true := by
  have hm := (inRange_iff m n).1 h
  refine (inRange_iff _ n).2 fun c hc => ?_
  unfold Memory.write at hc
  split at hc
  · exact hm c (List.mem_filter.1 hc).1
  · exact (mem_setCell.1 hc).elim (fun he => he ▸ ha) fun hold => hm c hold.1

theorem inRange_eraseBlock {m : Memory} {n : Nat} (k : Nat) (h : m.inRange n = true) :
    (m.eraseBlock k).inRange n = true :=
  (inRange_iff _ n).2 fun c hc => (inRange_iff m n).1 h c (List.mem_filter.1 hc).1

/-! ### Programming and drawing -/

theorem programCells_nil (c : Params) (k : Nat) (m : Memory) : programCells c k [] m = m := rfl

theorem programCells_cons (c : Params) (k : Nat) (cell : Host.Cell) (more : List Host.Cell) (m : Memory) :
    programCells c k (cell :: more) m =
      programCells c k more (m.write (64 * k + cell.1) (programByte c (m.read (64 * k + cell.1)) cell.2)) := rfl

theorem programCells_append (c : Params) (k : Nat) (l r : List Host.Cell) (m : Memory) :
    programCells c k (l ++ r) m = programCells c k r (programCells c k l m) := List.foldl_append

theorem wf_programCells (c : Params) (k : Nat) (cells : List Host.Cell) {m : Memory} (h : m.wf = true) :
    (programCells c k cells m).wf = true :=
  cells.foldlRecOn (motive := fun w => Memory.wf w = true) _ h fun _ hm _ _ => wf_write _ _ hm

theorem inRange_programCells (c : Params) (k : Nat) (cells : List Host.Cell) {m : Memory} {n : Nat}
    (h : m.inRange n = true) (hl : ∀ d ∈ cells, 64 * k + d.1 < n) : (programCells c k cells m).inRange n = true :=
  cells.foldlRecOn (motive := fun w => Memory.inRange w n = true) _ h fun _ hm d hd => inRange_write _ _ hm (hl d hd)

/-- A Commit changes only the addresses of the latched cells. -/
theorem read_programCells_of_notMem (c : Params) (k : Nat) {cells : List Host.Cell} (m : Memory) {x : Nat}
    (hx : ∀ d ∈ cells, x ≠ 64 * k + d.1) : (programCells c k cells m).read x = m.read x := by
  refine cells.foldlRecOn (motive := fun w => Memory.read w x = m.read x) _ rfl fun w hw d hd => ?_
  rw [read_write, if_neg (hx d hd), hw]

/-- A Commit programs each latched cell, once (R124, R125). -/
theorem read_programCells_of_mem (c : Params) (k : Nat) {cells : List Host.Cell} {d : Host.Cell}
    (hs : cellsSorted cells = true) (hd : d ∈ cells) : ∀ m : Memory,
      (programCells c k cells m).read (64 * k + d.1) = programByte c (m.read (64 * k + d.1)) d.2 := by
  induction cells with
  | nil => cases hd
  | cons cell more ih =>
    intro m
    rw [sorted_iff, List.pairwise_cons] at hs
    rw [programCells_cons]
    rcases List.mem_cons.1 hd with rfl | hd'
    · rw [read_programCells_of_notMem c k _ fun e he => by have := hs.1 e he; omega, read_write, if_pos rfl]
    · have := hs.1 d hd'
      rw [ih ((sorted_iff more).2 hs.2) hd', read_write, if_neg (by omega)]

/-- Every address drawn reads as some draw, every other one as before. -/
theorem read_drawCells (addrs : List Nat) (x : Nat) : ∀ (m : Memory) (n : Nat),
    (x ∉ addrs → (drawCells m n addrs).read x = m.read x) ∧
    (x ∈ addrs → ∃ i, (drawCells m n addrs).read x = Config.draw i) := by
  induction addrs with
  | nil => exact fun m n => ⟨fun _ => rfl, by simp⟩
  | cons a as ih =>
    intro m n
    have hrest := ih (m.write a (Config.draw n)) (n + 1)
    rw [read_write] at hrest
    refine ⟨fun hx => ?_, fun hx => ?_⟩
    · rw [List.mem_cons, not_or] at hx
      rw [drawCells, hrest.1 hx.2, if_neg hx.1]
    · by_cases has : x ∈ as
      · exact hrest.2 has
      · have hxa : x = a := (List.mem_cons.1 hx).resolve_right has
        exact ⟨n, by rw [drawCells, hrest.1 has, if_pos hxa]⟩

/-- A property of the array that a write to any of some addresses keeps survives the draws at them. -/
theorem drawCells_keeps {P : Memory → Prop} {ok : Nat → Prop} (hP : ∀ m a v, P m → ok a → P (m.write a v))
    (addrs : List Nat) (ha : ∀ a ∈ addrs, ok a) : ∀ (m : Memory) (n : Nat), P m → P (drawCells m n addrs) := by
  induction addrs with
  | nil => exact fun _ _ hm => hm
  | cons a as ih =>
    rw [List.forall_mem_cons] at ha
    exact fun m n hm => ih ha.2 _ _ (hP m a _ hm ha.1)

theorem wf_drawCells {m : Memory} (n : Nat) (addrs : List Nat) (h : m.wf = true) :
    (drawCells m n addrs).wf = true :=
  drawCells_keeps (P := fun m => m.wf = true) (ok := fun _ => True) (fun _ a v hm _ => wf_write a v hm) addrs (fun _ _ => trivial) m n h

theorem inRange_drawCells {m : Memory} {k : Nat} (n : Nat) {addrs : List Nat} (h : m.inRange k = true)
    (ha : ∀ a ∈ addrs, a < k) : (drawCells m n addrs).inRange k = true :=
  drawCells_keeps (P := fun m => m.inRange k = true) (fun _ a v hm hk => inRange_write a v hm hk) addrs ha m n h

/-! ### Addresses -/

theorem mem_blockAddrs {k x : Nat} : x ∈ blockAddrs k ↔ x / 64 = k := by
  simp only [blockAddrs, List.mem_map, List.mem_range]
  exact ⟨fun ⟨j, hj, hx⟩ => by omega, fun h => ⟨x % 64, by omega, by omega⟩⟩

theorem mem_latchAddrs {s : State} {x : Nat} :
    x ∈ latchAddrs s ↔ ∃ k, s.latchBlk = some k ∧ ∃ c ∈ s.latchMap, 64 * k + c.1 = x := by
  unfold latchAddrs
  cases s.latchBlk <;> simp

@[simp] theorem latchAddrs_setBusy (s : State) (b : NvmBusy) : latchAddrs (s.setBusy b) = latchAddrs s := rfl
@[simp] theorem latchAddrs_setTodo (s : State) (ts : List Task) : latchAddrs (s.setTodo ts) = latchAddrs s := rfl

/-! ### Programming a range -/

/-- R122, R125: what a WRITE programs, byte by byte. -/
def programBytes (c : Params) (m : Memory) : Nat → List Byte → Memory
  | _, [] => m
  | a, v :: later => programBytes c (m.write a (programByte c (m.read a) v)) (a + 1) later

/-- What a byte reads as after a WRITE: programmed with its byte inside the range, unchanged outside (R122, R124). -/
theorem read_programBytes (c : Params) (v : List Byte) (x : Nat) : ∀ (m : Memory) (a : Nat),
    (programBytes c m a v).read x =
      if a ≤ x ∧ x < a + v.length then programByte c (m.read x) (v.getD (x - a) 0#8) else m.read x := by
  induction v with
  | nil => intro m a; simp [programBytes]
  | cons b later ih =>
    intro m a
    rw [programBytes, ih, read_write, List.length_cons]
    rcases lt_trichotomy x a with hlt | rfl | hgt
    · rw [if_neg (by omega), if_neg (by omega), if_neg (by omega)]
    · rw [if_neg (by omega), if_pos rfl, if_pos (by omega), Nat.sub_self, List.getD_cons_zero]
    · obtain ⟨i, rfl⟩ : ∃ i, x = a + 1 + i := ⟨x - (a + 1), by omega⟩
      rw [if_neg (by omega : a + 1 + i ≠ a), show a + 1 + i - a = i + 1 by omega, Nat.add_sub_cancel_left,
        List.getD_cons_succ]
      exact if_congr (by omega) rfl rfl

theorem wf_programBytes (c : Params) (v : List Byte) : ∀ (m : Memory) (a : Nat), m.wf = true →
    (programBytes c m a v).wf = true := by
  induction v with
  | nil => exact fun _ _ h => h
  | cons b later ih => exact fun m a h => ih _ _ (wf_write a _ h)

/-- R125: both program models give the byte itself on an erased one. -/
theorem programByte_erased (c : Params) (v : Byte) : programByte c erasedByte v = v := by
  unfold programByte
  split
  · rfl
  · exact BitVec.allOnes_and

end Sys2Proof.Machine
end

