-- ==== Sys2Proof/Laws/Steps.lean ====
section
/-! SUPPORT. Everything a step can do, and how the primitives of a sequence follow each other (R11, R12, R22). -/

namespace Sys2Proof.Machine

variable {s t u : State}

/-! ### One step -/

/-- The outcome of a turn. -/
def Turn.outcome : Turn → Result
  | .instr i s => exec i s
  | .own o => o

theorem step_eq (s : State) : step s = (takeTurn s).outcome := rfl

theorem State.Alone.turn (h : s.Alone) : s.turn = some [] := by
  rw [State.turn, h.2, ite_self]

/-- The block's turn (R12). -/
theorem takeTurn_block {e : List Move} (hc : s.ctl ≠ .doneJump) (h : s.turn = some e) :
    takeTurn s = blockTurn (s.setEnv e) := by
  rw [takeTurn, if_neg hc, h]

/-- What is left of the schedule when the block moves: all of it in the middle of a step and while the block is held, else
all but the turn it gave. -/
theorem turn_some {e : List Move} (h : s.turn = some e) :
    e = s.env ∧ (s.inStep = true ∨ s.env = [] ∨ s.held = true) ∨ s.inStep = false ∧ s.env = .run :: e := by
  unfold State.turn at h
  cases hi : s.inStep with
  | true => simp_all
  | false =>
    rcases henv : s.env with - | ⟨m, l⟩
    · simp_all
    · cases m <;> simp_all

/-- What moves when the block does not. -/
theorem turn_none (h : s.turn = none) :
    s.inStep = false ∧ ∃ m e, s.env = m :: e ∧ environmentTurn s = environmentMove m (s.setEnv e) ∧
      (m = .powerFail ∨ s.held = false ∧ m ≠ .run) := by
  unfold State.turn at h
  cases hi : s.inStep with
  | true => simp_all
  | false =>
    rcases henv : s.env with - | ⟨m, l⟩
    · simp_all
    · cases m <;> simp_all [environmentTurn]

/-- In the middle of a step only the block moves. -/
theorem turn_inStep (h : s.inStep = true) : s.turn = some s.env := if_pos h

/-- Setting the schedule to what it is. -/
theorem setEnv_self {e : List Move} (h : s.env = e) : s.setEnv e = s := h ▸ rfl

/-- A step of the block in the middle of a sequence is one primitive of the first operation. -/
theorem step_task {task : Task} {rest : List Task} (ha : s.Alone) (hc : s.ctl ≠ .doneJump)
    (ht : s.todo = task :: rest) : step s = taskStep task rest s := by
  rw [step_eq, takeTurn_block hc ha.turn, setEnv_self ha.2, blockTurn, if_pos ha.1]
  simp only [ht, Turn.outcome]

/-- A step of the block between two sequences. -/
theorem step_fetch (ha : s.Alone) (hc : s.ctl ≠ .doneJump) (ht : s.todo = []) :
    step s = (fetchTurn s).outcome := by
  rw [step_eq, takeTurn_block hc ha.turn, setEnv_self ha.2, blockTurn, if_pos ha.1]
  simp only [ht]

/-- Everything a step that gives a next state can be. -/
inductive StepIs (s t : State) : Prop where
  | environment (m : Move) (e : List Move) (hturn : s.turn = none) (henv : s.env = m :: e)
      (h : t = environmentMove m (s.setEnv e))
  | reset (e : List Move) (hturn : s.turn = some e) (hp : s.powered = false) (h : resetBlock (s.setEnv e) = .next t)
  | task (e : List Move) (hturn : s.turn = some e) (hp : s.powered = true) (now : Task) (rest : List Task)
      (htodo : s.todo = now :: rest) (h : taskStep now rest (s.setEnv e) = .next t)
  | fetch (e : List Move) (hturn : s.turn = some e) (hp : s.powered = true) (htodo : s.todo = [])
      (h : (fetchTurn (s.setEnv e)).outcome = .next t)

/-- A turn of the block is the reset, a primitive, or what comes next. -/
theorem blockTurn_cases {e : List Move} (hturn : s.turn = some e) (h : (blockTurn (s.setEnv e)).outcome = .next t) :
    StepIs s t := by
  unfold blockTurn at h
  by_cases hp : s.powered = true
  · rw [if_pos (show (s.setEnv e).powered = true from hp)] at h
    cases htodo : s.todo with
    | cons now rest => exact .task e hturn hp now rest htodo (by simpa only [State.setEnv_todo, htodo, Turn.outcome] using h)
    | nil => exact .fetch e hturn hp htodo (by simpa only [State.setEnv_todo, htodo] using h)
  · rw [if_neg (show ¬ (s.setEnv e).powered = true from hp)] at h
    exact .reset e hturn (Bool.eq_false_iff.2 hp) h

theorem step_cases (h : step s = .next t) : s.ctl ≠ .doneJump ∧ StepIs s t := by
  rw [step_eq] at h
  unfold takeTurn at h
  split_ifs at h with hc
  · cases h
  · refine ⟨hc, ?_⟩
    cases hturn : s.turn with
    | some e => exact blockTurn_cases hturn (by rwa [hturn] at h)
    | none =>
      rw [hturn] at h
      obtain ⟨_, m, e, henv, hmove, _⟩ := turn_none hturn
      exact .environment m e hturn henv ((Host.Outcome.next.inj h).symm.trans hmove)

/-- An offered byte waits in the receiver, or nothing changes (R40). -/
theorem hostOffer_cases (b : Byte) (s : State) :
    s.rxEnable = true ∧ hostOffer b s = s.setRx true (s.rxq ++ [b]) ∨ hostOffer b s = s := by
  unfold hostOffer
  split_ifs with h
  · exact .inl ⟨h.1, rfl⟩
  · exact .inr rfl

/-- A reset that starts a boot found the vector intact (R290, R294). -/
theorem resetBlock_next (h : resetBlock s = .next t) : vectorIntact s = true ∧ t = volatileReset s := by
  unfold resetBlock at h
  split at h <;> cases h
  exact ⟨‹_›, rfl⟩

/-- A poll takes the oldest byte, or nothing changes (R40). -/
theorem rxPoll_cases (s : State) :
    (∃ b q, s.rxEnable = true ∧ s.rxq = b :: q ∧ rxPoll s = (some b, s.setRx true q)) ∨
      (s.rxEnable = false ∨ s.rxq = []) ∧ rxPoll s = (none, s) := by
  unfold rxPoll
  by_cases he : s.rxEnable = true
  · rw [if_pos he]
    cases hq : s.rxq
    · exact .inr ⟨.inr rfl, rfl⟩
    · exact .inl ⟨_, _, he, rfl, rfl⟩
  · exact .inr ⟨.inl (Bool.eq_false_iff.2 he), if_neg he⟩

/-! ### Sequences -/

/-- The sequence in progress in `s` comes to `t`, at its end or before. -/
def State.Reaches (s t : State) : Prop := ∃ n, runSequence n s = .next t

theorem State.Reaches.refl (s : State) : s.Reaches s := ⟨0, rfl⟩

/-- One step of a sequence. -/
theorem State.Reaches.head (ht : s.todo ≠ []) (h : step s = .next u) (hu : u.Reaches t) : s.Reaches t := by
  obtain ⟨n, hn⟩ := hu
  exact ⟨n + 1, by rw [runSequence, if_neg ht, h]; exact hn⟩

/-- One primitive of a sequence that runs alone. -/
theorem State.Reaches.primitive {task : Task} {rest : List Task} (ha : s.Alone) (hc : s.ctl ≠ .doneJump)
    (ht : s.todo = task :: rest) (h : taskStep task rest s = .next u) (hu : u.Reaches t) : s.Reaches t :=
  .head (by rw [ht]; exact List.cons_ne_nil _ _) ((step_task ha hc ht).trans h) hu

theorem State.Reaches.finishes (h : s.Reaches t) (ht : t.todo = []) : s.Finishes t :=
  h.imp fun _ hn => ⟨hn, ht⟩

/-- Where a sequence has ended it stays. -/
theorem runSequence_ended (n : Nat) (h : s.todo = []) : runSequence n s = .next s := by
  cases n
  · rfl
  · rw [runSequence, if_pos h]

/-- Before its end a sequence goes by one step. -/
theorem runSequence_next {n : Nat} (ht : s.todo ≠ []) (h : runSequence (n + 1) s = .next t) :
    ∃ u, step s = .next u ∧ runSequence n u = .next t := by
  rw [runSequence, if_neg ht] at h
  split at h
  · exact ⟨_, ‹_›, h⟩
  all_goals cases h

/-- What every step of a sequence keeps holds where the sequence comes to. -/
theorem runSequence_keeps {P : State → Prop} (hP : ∀ v w, P v → v.todo ≠ [] → step v = .next w → P w) (n : Nat) :
    ∀ s, P s → runSequence n s = .next t → P t := by
  induction n with
  | zero => exact fun s hs h => Host.Outcome.next.inj h ▸ hs
  | succ n ih =>
    intro s hs h
    by_cases ht : s.todo = []
    · rw [runSequence_ended _ ht] at h
      exact Host.Outcome.next.inj h ▸ hs
    · obtain ⟨v, hv, hrest⟩ := runSequence_next ht h
      exact ih v (hP s v hs ht hv) hrest

/-- A sequence has one end. -/
theorem State.Finishes.unique {v : State} (h : s.Finishes u) (h' : s.Finishes v) : u = v := by
  obtain ⟨n, hn, hu⟩ := h
  obtain ⟨k, hk, hv⟩ := h'
  induction n generalizing s k with
  | zero =>
    obtain rfl := Host.Outcome.next.inj hn
    rw [runSequence_ended k hu] at hk
    exact Host.Outcome.next.inj hk
  | succ n ih =>
    by_cases ht : s.todo = []
    · rw [runSequence_ended _ ht] at hn hk
      exact (Host.Outcome.next.inj hn).symm.trans (Host.Outcome.next.inj hk)
    · cases k with
      | zero => exact absurd (Host.Outcome.next.inj hk ▸ hv) ht
      | succ k =>
        obtain ⟨a, ha, hna⟩ := runSequence_next ht hn
        obtain ⟨b, hb, hkb⟩ := runSequence_next ht hk
        obtain rfl : a = b := Host.Outcome.next.inj (ha.symm.trans hb)
        exact ih hna k hkb

end Sys2Proof.Machine
end

