-- ==== Sys2Proof/Laws/Storage.lean ====
section
/-! SUPPORT. What the sequences of the storage controller come to when the block runs alone (R120 to R128). Each lemma
says where a sequence that starts with an operation stands once that operation is done. -/

namespace Sys2Proof.Machine

variable {s u : State}

/-- The block runs alone and has not handed the CPU over. -/
abbrev State.Free (s : State) : Prop := s.Alone ∧ s.ctl ≠ .doneJump

theorem State.Free.of {t : State} (hf : s.Free) (hp : t.powered = s.powered) (he : t.env = s.env)
    (hc : t.ctl = s.ctl) : t.Free :=
  ⟨⟨hp.trans hf.1.1, he.trans hf.1.2⟩, fun h => hf.2 (hc.symm.trans h)⟩

theorem State.Reaches.of_primitive {task : Task} {rest : List Task} {t : State} (hf : s.Free)
    (ht : s.todo = task :: rest) (h : taskStep task rest s = .next t) (hu : t.Reaches u) : s.Reaches u :=
  .primitive hf.1 hf.2 ht h hu

/-! ### READ -/

/-- The bytes of the array, the first and the rest. -/
theorem bytes_succ (m : Memory) (a n : Nat) : m.bytes a (n + 1) = m.read a :: m.bytes (a + 1) n := by
  simp only [Memory.bytes, List.range_succ_eq_map, List.map_cons, List.map_map, Nat.add_zero]
  exact congrArg _ (List.map_congr_left fun i _ => congrArg m.read (by simp; omega))

theorem bytes_length (m : Memory) (a n : Nat) : (m.bytes a n).length = n := by simp [Memory.bytes]

theorem bytes_getD (m : Memory) (a : Nat) {n i : Nat} (h : i < n) : (m.bytes a n).getD i 0#8 = m.read (a + i) := by
  simp [Memory.bytes, h]

theorem bytes_congr {m m' : Memory} {a n : Nat} (h : ∀ i, i < n → m.read (a + i) = m'.read (a + i)) :
    m.bytes a n = m'.bytes a n := List.map_congr_left fun i hi => h i (List.mem_range.1 hi)

theorem readByte_inRange {a : Nat} (h : a < s.cfg.flashSize) : readByte s a = s.mem.read a := if_pos h

theorem afterByte_inRange {a : Nat} (h : a < s.cfg.flashSize) : afterByte s a = s := if_pos h

/-- What the bytes of a READ are for does not depend on the sequence they were read in. -/
theorem useRead_setTodo (use : ReadUse) (bytes : List Byte) (rest ts : List Task) (s : State) :
    useRead use bytes rest (s.setTodo ts) = useRead use bytes rest s := by
  cases use <;> rfl

/-- A READ inside the array hands its bytes on after one step per byte (R120, R121). -/
theorem read_reaches {use : ReadUse} {rest : List Task} : ∀ (n : Nat) {s : State} {a : Nat} {got : List Byte},
    s.Free → s.todo = .read a (n + 1) got use :: rest → a + (n + 1) ≤ s.cfg.flashSize →
    (useRead use (got ++ s.mem.bytes a (n + 1)) rest s).Reaches u → s.Reaches u := by
  intro n
  induction n with
  | zero =>
    intro s a got hf ht ha hu
    refine .of_primitive hf ht (congrArg Host.Outcome.next ?_) hu
    rw [readStep, readByte_inRange (by omega), afterByte_inRange (by omega), bytes_succ]
    rfl
  | succ n ih =>
    intro s a got hf ht ha hu
    have hstep : readStep a (n + 2) got use rest s =
        s.setTodo (.read (a + 1) (n + 1) (got ++ [s.mem.read a]) use :: rest) := by
      rw [readStep, readByte_inRange (by omega), afterByte_inRange (by omega)]
    refine .of_primitive hf ht (congrArg Host.Outcome.next hstep) (ih hf rfl (by simp; omega) ?_)
    rw [bytes_succ, ← List.singleton_append, ← List.append_assoc] at hu
    rw [useRead_setTodo]
    exact hu

/-! ### WRITE -/

/-- The state once the byte for `a` is in the latch. -/
def loaded (a : Nat) (v : Byte) (tasks : List Task) (s : State) : State :=
  (s.setTodo tasks).setLatch (some (a / 64)) (setCell (a % 64) v s.latchMap)

/-- The state once a WRITE has committed what it had loaded. -/
def written (m : Memory) (tasks : List Task) (s : State) : State :=
  (((s.setMem m).setLatch none []).setBusy .idle).setTodo tasks

theorem written_written (m m' : Memory) (ts ts' : List Task) (s : State) :
    written m ts (written m' ts' s) = written m ts s := rfl

theorem written_loaded (m : Memory) (ts ts' : List Task) (a : Nat) (v : Byte) (s : State) :
    written m ts (loaded a v ts' s) = written m ts s := rfl

/-- A Commit, once it has completed (R124). -/
theorem commit_reaches {k : Nat} {rest : List Task} (hf : s.Free) (ht : s.todo = .commit :: rest)
    (hb : s.nvmBusy = .idle) (hk : s.latchBlk = some k)
    (hu : (written (programCells s.cfg k s.latchMap s.mem) rest s).Reaches u) : s.Reaches u := by
  refine .of_primitive hf ht (t := startCommit s) (by rw [taskStep, commitStep, hb]; rfl) ?_
  refine .of_primitive (s := startCommit s) hf ht (t := finishCommit ((startCommit s).setTodo rest)) rfl ?_
  convert hu using 1
  simp only [finishCommit, startCommit, State.setTodo_latchBlk, State.setBusy_latchBlk, hk]
  rfl

theorem writeTasks_cons (a : Nat) (v : Byte) (later : List Byte) : writeTasks a (v :: later) = [.write a (v :: later)] :=
  if_neg (List.cons_ne_nil _ _)

/-- A Commit follows the last byte of a WRITE and the last byte of a block. -/
theorem afterLoad_commit {a : Nat} {later : List Byte} (h : (a + 1) % 64 = 0 ∨ later = []) :
    afterLoad a later = .commit :: writeTasks (a + 1) later := if_pos h

/-- Inside a block the next byte follows. -/
theorem afterLoad_write {a : Nat} {v : Byte} {later : List Byte} (h : (a + 1) % 64 ≠ 0) :
    afterLoad a (v :: later) = [.write (a + 1) (v :: later)] := by
  rw [afterLoad, if_neg (not_or.2 ⟨h, List.cons_ne_nil _ _⟩), writeTasks_cons]

/-- The next byte of a WRITE enters the latch (R122, R123). -/
theorem latchLoad_next {a : Nat} {v : Byte} (ha : a < s.cfg.flashSize)
    (hl : s.latchBlk = none ∨ s.latchBlk = some (a / 64)) :
    latchLoad a v s = .next (s.setLatch (some (a / 64)) (setCell (a % 64) v s.latchMap)) := by
  rw [latchLoad, if_neg (by omega), if_neg (by tauto)]

/-- The array after the latched cells and then the bytes still to be written. -/
theorem programBytes_after_latch (c : Params) (m : Memory) (a : Nat) {cells : List Host.Cell} (v : Byte)
    (later : List Byte) (hl : ∀ d ∈ cells, d.1 < a % 64) :
    programBytes c (programCells c (a / 64) (setCell (a % 64) v cells) m) (a + 1) later =
      programBytes c (programCells c (a / 64) cells m) a (v :: later) := by
  rw [setCell_above _ hl, programCells_append, programCells_cons, programBytes, Nat.div_add_mod]
  rfl

/-- The latch in the middle of a WRITE that is about to load the byte for `a`: it holds bytes of that block only, all of
lower offsets. -/
def State.LatchBefore (s : State) (a : Nat) : Prop :=
  s.latchBlk = none ∧ s.latchMap = [] ∨ s.latchBlk = some (a / 64) ∧ ∀ d ∈ s.latchMap, d.1 < a % 64

theorem State.LatchBefore.below {a : Nat} (h : s.LatchBefore a) : ∀ d ∈ s.latchMap, d.1 < a % 64 := by
  rcases h with ⟨_, h⟩ | ⟨_, h⟩
  · simp [h]
  · exact h

/-- A WRITE loads its next byte, from a latch that holds lower offsets of that block only. -/
theorem load_reaches {a : Nat} {v : Byte} {later : List Byte} {rest : List Task} (hf : s.Free)
    (ht : s.todo = .write a (v :: later) :: rest) (hl : s.LatchBefore a) (ha : a < s.cfg.flashSize)
    (hu : (loaded a v (afterLoad a later ++ rest) s).Reaches u) : s.Reaches u :=
  .of_primitive hf ht (latchLoad_next (s := s.setTodo _) ha (hl.imp And.left And.left)) hu

/-- A WRITE, from a partly loaded latch: the latched cells and then the bytes are programmed (R122). -/
theorem write_reaches {rest : List Task} (later : List Byte) : ∀ {s : State} {a : Nat} {v : Byte}, s.Free →
    s.todo = .write a (v :: later) :: rest → s.nvmBusy = .idle → s.LatchBefore a →
    a + (v :: later).length ≤ s.cfg.flashSize →
    (written (programBytes s.cfg (programCells s.cfg (a / 64) s.latchMap s.mem) a (v :: later)) rest s).Reaches u →
    s.Reaches u := by
  induction later with
  | nil =>
    intro s a v hf ht hb hl ha hu
    rw [← programBytes_after_latch _ _ _ _ _ hl.below] at hu
    exact load_reaches hf ht hl ha (commit_reaches hf (congrArg (· ++ rest) (afterLoad_commit (.inr rfl))) hb rfl hu)
  | cons w later ih =>
    intro s a v hf ht hb hl ha hu
    rw [← programBytes_after_latch _ _ _ _ _ hl.below] at hu
    have hw : a + 1 + (w :: later).length ≤ s.cfg.flashSize := by simp at ha ⊢; omega
    refine load_reaches hf ht hl (by simp at ha; omega) ?_
    by_cases hend : (a + 1) % 64 = 0
    · refine commit_reaches (k := a / 64) (rest := writeTasks (a + 1) (w :: later) ++ rest) hf
        (congrArg (· ++ rest) (afterLoad_commit (.inl hend))) hb rfl ?_
      refine ih (a := a + 1) (v := w) hf (congrArg (· ++ rest) (writeTasks_cons _ _ _)) rfl (.inl ⟨rfl, rfl⟩) hw ?_
      rw [written_written, written_loaded]
      exact hu
    · have hblk : (a + 1) / 64 = a / 64 := by omega
      refine ih (a := a + 1) (v := w) hf (congrArg (· ++ rest) (afterLoad_write hend)) hb
        (.inr ⟨congrArg some hblk.symm, fun d hd => ?_⟩) hw ?_
      · rcases mem_setCell.1 hd with rfl | ⟨hd, _⟩
        · show a % 64 < (a + 1) % 64
          omega
        · have := hl.below d hd
          omega
      · rw [hblk]
        exact hu

/-- A whole WRITE of bytes that lie in the array, from an empty latch (R122). -/
theorem writeTasks_reaches {a : Nat} {v : List Byte} {rest : List Task} (hf : s.Free) (hq : s.Quiet)
    (ht : s.todo = writeTasks a v ++ rest) (ha : a + v.length ≤ s.cfg.flashSize)
    (hu : ((s.setMem (programBytes s.cfg s.mem a v)).setTodo rest).Reaches u) : s.Reaches u := by
  obtain ⟨hblk, hmap, hbusy, _⟩ := hq
  cases v with
  | nil =>
    convert hu
    rw [show rest = s.todo by simpa [writeTasks] using ht.symm]
    rfl
  | cons b later =>
    rw [writeTasks_cons] at ht
    refine write_reaches later hf ht hbusy (.inl ⟨hblk, hmap⟩) ha ?_
    have hsame : written (programBytes s.cfg s.mem a (b :: later)) rest s =
        (s.setMem (programBytes s.cfg s.mem a (b :: later))).setTodo rest := by
      simp only [written, ← hblk, ← hmap, ← hbusy]
      rfl
    rw [hmap]
    exact hsame ▸ hu

/-! ### Erasing -/

/-- An erase that starts with the controller at rest, once it has completed (R127). -/
theorem erase_reaches {k : Nat} {rest : List Task} (hf : s.Free) (ht : s.todo = .erase k :: rest)
    (hb : s.nvmBusy = .idle) (hk : k < s.cfg.flashSize / 64)
    (hu : ((s.setMem (s.mem.eraseBlock k)).setTodo rest).Reaches u) : s.Reaches u := by
  refine .of_primitive hf ht (t := s.setBusy (.erase k)) ?_ ?_
  · rw [taskStep, eraseStep, hb, if_neg nofun, startErase, if_neg (by omega)]
  · refine .of_primitive (s := s.setBusy (.erase k)) hf ht (if_pos rfl) ?_
    convert hu using 1
    rw [finishErase, ← hb]
    rfl

/-- The loop of ERASE_RANGE starts the erase of its next block (R128). -/
theorem eraseFrom_reaches {k n : Nat} {rest : List Task} (hf : s.Free)
    (ht : s.todo = eraseTasks k (n + 1) ++ rest) (hb : s.nvmBusy = .idle) (hk : k < s.cfg.flashSize / 64)
    (hu : ((s.setMem (s.mem.eraseBlock k)).setTodo (restoreVector k s ++ eraseTasks (k + 1) n ++ rest)).Reaches u) :
    s.Reaches u := by
  refine .of_primitive hf ht (t := (s.setTodo (.erase k :: (restoreVector k s ++ eraseTasks (k + 1) n ++ rest))).setBusy
    (.erase k)) ?_ ?_
  · rw [taskStep, eraseFromStep, if_neg (Nat.succ_ne_zero n), startErase, if_neg (by simp; omega)]
    rfl
  · refine .of_primitive (s := _) hf rfl (if_pos rfl) ?_
    convert hu using 1
    simp only [finishErase, State.setBusy, State.setMem, State.setTodo, ← hb]

/-- The loop from a later block than 0 on erases its blocks (R128). -/
theorem eraseTasks_reaches {rest : List Task} (n : Nat) : ∀ {s : State} {k : Nat}, s.Free → 0 < k →
    s.todo = eraseTasks k n ++ rest → s.nvmBusy = .idle → k + n ≤ s.cfg.flashSize / 64 →
    (((s.setMem ((List.range' k n).foldl Memory.eraseBlock s.mem)).setTodo rest).Reaches u) → s.Reaches u := by
  induction n with
  | zero =>
    intro s k hf _ ht _ _ hu
    convert hu
    rw [show rest = s.todo by simpa [eraseTasks] using ht.symm]
    rfl
  | succ n ih =>
    intro s k hf hk ht hb hn hu
    refine eraseFrom_reaches hf ht hb (by omega) (ih hf k.succ_pos ?_ hb (by simp; omega) hu)
    simp [restoreVector, hk.ne']

/-- What erasing a run of blocks leaves. -/
theorem read_eraseBlocks (n x : Nat) : ∀ (k : Nat) (m : Memory),
    Memory.read ((List.range' k n).foldl Memory.eraseBlock m) x =
      if k ≤ x / 64 ∧ x / 64 < k + n then erasedByte else m.read x := by
  induction n with
  | zero => intro k m; simp
  | succ n ih =>
    intro k m
    rw [List.range'_succ, List.foldl_cons, ih, read_eraseBlock]
    grind

end Sys2Proof.Machine
end

