-- ==== Sys2Proof/Laws/Tasks.lean ====
section
/-! SUPPORT. What one primitive of each operation can do (R11): the state it leaves, and that of the array it changes only
what the sequence in progress is still to change (R42, R74). -/

namespace Sys2Proof.Machine

variable {s t : State}

/-! ### One primitive of each operation -/

theorem latchLoad_cases {a : Nat} {v : Byte} (h : latchLoad a v s = .next t) :
    a < s.cfg.flashSize ∧ (s.latchBlk = none ∨ s.latchBlk = some (a / 64)) ∧
      t = s.setLatch (some (a / 64)) (setCell (a % 64) v s.latchMap) := by
  unfold latchLoad at h
  split_ifs at h with hr hb
  exact ⟨Nat.lt_of_not_le hr, by tauto, (Host.Outcome.next.inj h).symm⟩

theorem startErase_cases {k : Nat} (h : startErase k s = .next t) :
    k < s.cfg.flashSize / 64 ∧ t = s.setBusy (.erase k) := by
  unfold startErase at h
  split_ifs at h with hk
  exact ⟨Nat.lt_of_not_le hk, (Host.Outcome.next.inj h).symm⟩

/-- A primitive of an erase starts its cycle or completes it (R127). -/
theorem eraseStep_cases {k : Nat} {rest : List Task} (h : eraseStep k rest s = .next t) :
    s.nvmBusy = .erase k ∧ t = finishErase k (s.setTodo rest) ∨
      s.nvmBusy ≠ .erase k ∧ k < s.cfg.flashSize / 64 ∧ t = s.setBusy (.erase k) := by
  unfold eraseStep at h
  split_ifs at h with hb
  · exact .inl ⟨hb, (Host.Outcome.next.inj h).symm⟩
  · exact .inr ⟨hb, startErase_cases h⟩

/-- A primitive of the loop of ERASE_RANGE starts the erase of its next block (R128). -/
theorem eraseFromStep_cases {k n : Nat} {rest : List Task} (hn : 0 < n) (h : eraseFromStep k n rest s = .next t) :
    k < s.cfg.flashSize / 64 ∧
      t = (s.setTodo (.erase k :: (restoreVector k s ++ eraseTasks (k + 1) (n - 1) ++ rest))).setBusy (.erase k) := by
  rw [eraseFromStep, if_neg hn.ne'] at h
  exact startErase_cases h

theorem finishCommit_eq {k : Nat} (hk : s.latchBlk = some k) :
    finishCommit s = ((s.setMem (programCells s.cfg k s.latchMap s.mem)).setLatch none []).setBusy .idle := by
  simp only [finishCommit, hk]

/-- A byte's READ leaves the state, but for the count of the draws. -/
theorem afterByte_eq (s : State) (a : Nat) : ∃ d, afterByte s a = s.setDraws d := by
  unfold afterByte
  split_ifs
  · exact ⟨s.draws, rfl⟩
  · exact ⟨_, rfl⟩

/-- A command's payload reads leave the state, but for the count of the draws (log 12). -/
theorem afterPayload_eq (s : State) (top : Nat) : ∃ d, afterPayload s top = s.setDraws d := by
  unfold afterPayload
  split_ifs
  · exact ⟨s.draws, rfl⟩
  · exact ⟨_, rfl⟩

/-- The elements a READ leaves: the array, the controller, the transport and the control state. -/
def State.controller (s : State) : State :=
  { State.reset with
    cfg := s.cfg, mem := s.mem, ctl := s.ctl, latchBlk := s.latchBlk, latchMap := s.latchMap, nvmBusy := s.nvmBusy
    txFlight := s.txFlight, out := s.out }

theorem afterByte_controller (s : State) (a : Nat) : (afterByte s a).controller = s.controller := by
  obtain ⟨d, hd⟩ := afterByte_eq s a
  rw [hd]
  rfl

/-- The bytes of a READ go to the registers and to the sequence, nowhere else. -/
theorem useRead_controller (use : ReadUse) (bytes : List Byte) (rest : List Task) (s : State) :
    (useRead use bytes rest s).controller = s.controller := by
  cases use <;> rfl

/-- A primitive of a READ (R120). -/
theorem readStep_controller (a left : Nat) (got : List Byte) (use : ReadUse) (rest : List Task) (s : State) :
    (readStep a left got use rest s).controller = s.controller := by
  unfold readStep
  split
  · exact useRead_controller _ _ _ _
  · exact (useRead_controller _ _ _ _).trans (afterByte_controller s a)
  · exact afterByte_controller s a

/-! ### Addresses -/

theorem writeTasks_target {a : Nat} {v : List Byte} {x : Nat} (h : (writeTasks a v).any (fun task => task.target x) = true) :
    a ≤ x ∧ x < a + v.length := by
  unfold writeTasks at h
  split_ifs at h
  · cases h
  · simpa [Task.target] using h

theorem eraseTasks_target {k n x : Nat} (h : (eraseTasks k n).any (fun task => task.target x) = true) :
    k ≤ x / 64 ∧ x / 64 < k + n := by
  unfold eraseTasks at h
  split_ifs at h
  · cases h
  · simpa [Task.target] using h

/-- The addresses the sequence may still change, in pieces. -/
theorem pending_iff (s : State) (x : Nat) :
    s.pending x = true ↔
      s.todo.any (fun task => task.target x) = true ∨ x ∈ latchAddrs s ∨ x ∈ exposedAddrs s := by
  simp only [State.pending, Bool.or_eq_true, decide_eq_true_eq, or_assoc]

/-- What is exposed lies in the latch or in the block under erase. -/
theorem exposed_cases {x : Nat} (h : x ∈ exposedAddrs s) : x ∈ latchAddrs s ∨ s.nvmBusy = .erase (x / 64) := by
  unfold exposedAddrs at h
  split at h
  · cases h
  · exact .inl h
  · next k hk => exact .inr (by rw [hk, mem_blockAddrs.1 h])

theorem exposed_of_erase {x : Nat} (h : s.nvmBusy = .erase (x / 64)) : x ∈ exposedAddrs s := by
  rw [exposedAddrs, h]
  exact mem_blockAddrs.2 rfl

/-- A Commit, completed, has changed only latched addresses. -/
theorem read_finishCommit {x : Nat} (h : x ∉ latchAddrs s) : (finishCommit s).mem.read x = s.mem.read x := by
  cases hk : s.latchBlk with
  | none => simp [finishCommit, hk]
  | some k =>
    rw [finishCommit_eq hk]
    refine read_programCells_of_notMem _ _ _ fun d hd hx => h ?_
    exact mem_latchAddrs.2 ⟨k, hk, d, hd, hx.symm⟩

end Sys2Proof.Machine
end

