-- ==== Sys2Proof/Laws/Commands.lean ====
section
/-! SUPPORT. The payload a command reads (R181), what its checks accept (R184, R185), and what the ends of a command and of
a response come to (R155, R180, R239). -/

namespace Sys2Proof.Machine

variable {s u : State}

/-! ### Payload bytes -/

theorem payloadBytes_length (p : List Byte) (s : State) (i n : Nat) : (payloadBytes p s i n).length = n := by
  rw [payloadBytes, List.length_map, List.length_range]

theorem payloadBytes_getD (p : List Byte) (s : State) (i : Nat) {n j : Nat} (h : j < n) :
    (payloadBytes p s i n).getD j 0#8 = payloadByte p s (i + j) := by
  simp [payloadBytes, h]

/-- Inside the frame a payload byte is the frame's. -/
theorem payloadByte_frame {p : List Byte} {i : Nat} (s : State) (h : i < p.length) :
    payloadByte p s i = p.getD i 0#8 := by
  simp [payloadByte, h]

/-- A payload of the length a command reads is what it reads. -/
theorem payloadBytes_self (p : List Byte) (s : State) : payloadBytes p s 0 p.length = p := by
  refine List.ext_getElem (payloadBytes_length _ _ _ _) fun i hi _ => ?_
  rw [payloadBytes_length] at hi
  simp [payloadBytes, payloadByte, hi]

/-- `D` with data accepts exactly the sums below SIGNAT_OFFSET (R184, R185). -/
theorem statusD_success_iff {p : List Byte} (h : 5 ≤ p.length) :
    statusD p s = .success ↔ dSum s.cfg (dAddr p s) (dSize p s) < s.cfg.signatOffset := by
  rw [statusD, if_neg (Nat.not_lt.2 h)]
  split_ifs with hs
  · exact ⟨nofun, fun hlt => absurd hs (Nat.not_le.2 hlt)⟩
  · exact ⟨fun _ => Nat.lt_of_not_le hs, fun _ => rfl⟩

/-- Under `EXACT` an accepted `D` stays below SIGNAT_OFFSET (R190, D18). -/
theorem statusD_exact {p : List Byte} (hm : s.cfg.addrSumMode = .exact) (h : statusD p s = .success) :
    dAddr p s + dSize p s < s.cfg.signatOffset := by
  by_cases hl : 5 ≤ p.length
  · have hsum := (statusD_success_iff hl).1 h
    rwa [dSum, hm] at hsum
  · rw [statusD, if_pos (Nat.lt_of_not_le hl)] at h
    cases h

/-! ### The last steps -/

/-- A command whose writes are done returns Success (R180). -/
theorem ret_reaches {rest : List Task} (hf : s.Free) (ht : s.todo = .ret .success :: rest)
    (hu : (((s.setTodo rest).setStatus .success).setPos (.respond .ack)).Reaches u) : s.Reaches u :=
  .of_primitive hf ht rfl hu

/-- A Tx from an idle transport: the byte has reached the host (R41). -/
theorem tx_reaches {b : Byte} {rest : List Task} (hf : s.Free) (ht : s.todo = .tx b :: rest) (hi : s.txFlight = none)
    (hu : ((s.deliver b).setTodo rest).Reaches u) : s.Reaches u := by
  refine .of_primitive hf ht (t := s.setFlight (some b)) (by simp only [taskStep, txStep, hi, startTx]) ?_
  refine .of_primitive (s := s.setFlight (some b)) (t := finishTx b ((s.setFlight (some b)).setTodo rest)) hf ht
    (by simp only [taskStep, txStep, State.setFlight_txFlight]) ?_
  have hidle : (s.setFlight (some b)).setFlight none = s := by rw [← hi]; rfl
  have hsame : finishTx b ((s.setFlight (some b)).setTodo rest) =
      (((s.setFlight (some b)).setFlight none).deliver b).setTodo rest := rfl
  rw [hsame, hidle]
  exact hu

end Sys2Proof.Machine
end

