-- ==== Sys2Proof/Laws/Digest.lean ====
section
/-! SUPPORT. The digest pipeline in pieces: the sizes of what it holds, one chunk, the chunk loop (R210 to R213). -/

namespace Sys2Proof.Machine

variable {s : State}

/-! ### Sizes -/

theorem hashUpdate_append (c : HashCtx) (a b : List Byte) :
    hashUpdate c (a ++ b) = hashUpdate (hashUpdate c a) b := List.foldl_append

/-- The hashing collaborator never holds a whole block back (R212). -/
theorem hashUpdate_pending (bytes : List Byte) (c : HashCtx) (h : c.pending.length < 64) :
    (hashUpdate c bytes).pending.length < 64 := by
  refine List.foldlRecOn (motive := fun c : HashCtx => c.pending.length < 64) bytes hashByte h fun c hc b _ => ?_
  unfold hashByte
  by_cases hfull : (c.pending ++ [b]).length = 64
  · simp [hfull]
  · simp only [hfull, if_false]
    simp only [List.length_append, List.length_singleton] at hfull ⊢
    omega

theorem bigEndianBytes_length (k : Nat) : ∀ n, (bigEndianBytes k n).length = k := by
  induction k with
  | zero => exact fun _ => rfl
  | succ k ih => exact fun n => by rw [bigEndianBytes, List.length_append, ih, List.length_singleton]

/-- A digest is 32 bytes long. -/
theorem hashFinal_length (c : HashCtx) : (hashFinal c).length = 32 := by
  simp [hashFinal, HashWords.bytes, hashWordBytes, bigEndianBytes_length]

theorem be24_lt (b0 b1 b2 : Byte) : be24 b0 b1 b2 < 2 ^ 24 := by
  have h0 := b0.isLt
  have h1 := b1.isLt
  have h2 := b2.isLt
  simp only [be24]
  omega

theorem canon_length {c : List Byte} (h : c.length = 64) : (canon c).length = 64 := by simp [canon, h]

/-! ### The canonical image -/

/-- The canonical image's bytes from `a` on (R214). -/
def imagePart (m : Memory) (a n : Nat) : List Byte := (List.range n).map fun i => canonByte m (a + i)

theorem imagePart_split (m : Memory) (a k n : Nat) :
    imagePart m a (k + n) = imagePart m a k ++ imagePart m (a + k) n := by
  simp only [imagePart, List.range_add, List.map_append, List.map_map]
  exact congrArg _ (List.map_congr_left fun i _ => congrArg (canonByte m) (Nat.add_assoc a k i).symm)

theorem imagePart_none {m : Memory} {a n : Nat} (h : n = 0) : imagePart m a n = [] := by rw [h]; rfl

theorem imagePart_all (m : Memory) (n : Nat) : imagePart m 0 n = canonImage m n := by
  simp only [imagePart, canonImage, Nat.zero_add]

/-- The chunk at address 0, canonicalized, holds the image's first bytes (R213). -/
theorem canon_bytes (m : Memory) : canon (m.bytes 0 64) = imagePart m 0 64 := by
  simp [canon, Memory.bytes, imagePart, List.range_eq_range', List.range', canonByte, blankByte, List.replicate]

/-- Every later chunk is the image's as it stands (R213, R214). -/
theorem bytes_later (m : Memory) {a : Nat} (h : 8 ≤ a) (n : Nat) : m.bytes a n = imagePart m a n :=
  List.map_congr_left fun i _ => by rw [canonByte, if_neg (by omega), if_neg (by omega)]

/-- The chunk that R211 stores holds the image's bytes from `dg_addr` on. -/
theorem chunk_bytes (m : Memory) {a : Nat} (h64 : a % 64 = 0) :
    (if a = 0 then canon (m.bytes a 64) else m.bytes a 64) = imagePart m a 64 := by
  split_ifs with h0
  · rw [h0, canon_bytes]
  · exact bytes_later _ (by omega) _

/-- The truncated chunk is the image's next part. -/
theorem imagePart_take (m : Memory) (a : Nat) {k : Nat} (h : k ≤ 64) : (imagePart m a 64).take k = imagePart m a k := by
  have hpart := imagePart_split m a k (64 - k)
  rw [Nat.add_sub_cancel' h] at hpart
  rw [hpart, List.take_left' (by simp [imagePart])]

/-! ### The chunk loop -/

/-- The size the loop starts with is the size field's (R97, R210). -/
theorem useSize_bytes (rest : List Task) (s : State) :
    useSize (s.mem.bytes s.cfg.codeSizeOffset 3) rest s = (s.setSize (imageSize s)).setTodo (.hashInit :: rest) := by
  rw [useSize, bytes_getD _ _ (by omega), bytes_getD _ _ (by omega), bytes_getD _ _ (by omega), imageSize, Nat.add_zero]

/-- With nothing left to hash, the digest is finalized and the signature read and judged (R211, R215). -/
theorem signature_reaches {rest : List Task} (hf : s.Free) (h0 : s.dgRem = 0)
    (hs : s.cfg.signatOffset + 64 ≤ s.cfg.flashSize)
    (hu : (judgeImage (storedSignature s) rest (s.setDigest (hashFinal s.dgCtx))).Reaches u) :
    (nextChunk rest s).Reaches u := by
  have hfinal : nextChunk rest s = s.setTodo (.hashFinal :: rest) := by rw [nextChunk, if_pos h0]
  rw [hfinal]
  refine .of_primitive (s := s.setTodo _) hf rfl (t := finishHash rest s) rfl ?_
  refine read_reaches (s := finishHash rest s) (rest := rest) 63 hf rfl hs ?_
  exact .of_primitive (s := (finishHash rest s).setTodo (.verify (storedSignature s) :: rest)) hf rfl rfl hu

/-- One turn of the loop inside the array (R211). -/
theorem chunk_reaches {rest : List Task} (hf : s.Free) (h0 : s.dgRem ≠ 0) (h64 : s.dgAddr % 64 = 0)
    (hin : s.dgAddr + 64 ≤ s.cfg.flashSize)
    (hu : (nextChunk rest (s.setHash (s.dgAddr + 64) (s.dgRem - min 64 s.dgRem) (imagePart s.mem s.dgAddr 64)
      (hashUpdate s.dgCtx (imagePart s.mem s.dgAddr (min 64 s.dgRem))))).Reaches u) :
    (nextChunk rest s).Reaches u := by
  have hread : nextChunk rest s = s.setTodo (.read s.dgAddr blockSize [] .chunk :: rest) := by rw [nextChunk, if_neg h0]
  rw [hread]
  refine read_reaches (s := s.setTodo _) (rest := rest) 63 hf rfl hin ?_
  have hstore : useRead .chunk ([] ++ s.mem.bytes s.dgAddr (63 + 1)) rest s =
      (s.setHash s.dgAddr s.dgRem (imagePart s.mem s.dgAddr 64) s.dgCtx).setTodo (.hashUpdate :: rest) := by
    rw [← chunk_bytes s.mem h64]
    rfl
  rw [useRead_setTodo]
  refine hstore ▸ .of_primitive (s := (s.setHash s.dgAddr s.dgRem _ s.dgCtx).setTodo _) hf rfl rfl ?_
  rw [← imagePart_take s.mem s.dgAddr (Nat.min_le_left 64 s.dgRem)] at hu
  exact hu

/-- The loop inside the array feeds the hash the image's bytes from `dg_addr` on, and goes on to the signature (R211). -/
theorem chunks_reach {rest : List Task} (n : Nat) : ∀ {s : State}, s.Free → s.dgAddr % 64 = 0 →
    s.cfg.flashSize % 64 = 0 → s.dgAddr + s.dgRem ≤ s.cfg.flashSize → s.dgRem ≤ 64 * n →
    ∃ a c, ∀ u, (nextChunk rest (s.setHash a 0 c
      (hashUpdate s.dgCtx (imagePart s.mem s.dgAddr s.dgRem)))).Reaches u → (nextChunk rest s).Reaches u := by
  induction n with
  | zero =>
    intro s _ _ _ _ hn
    have h0 : s.dgRem = 0 := by omega
    refine ⟨s.dgAddr, s.chunk, fun u hu => ?_⟩
    rw [← h0, imagePart_none h0] at hu
    rwa [show s.setHash s.dgAddr s.dgRem s.chunk (hashUpdate s.dgCtx []) = s from rfl] at hu
  | succ n ih =>
    intro s hf h64 hfl hin hn
    by_cases h0 : s.dgRem = 0
    · exact ih hf h64 hfl hin (by omega)
    · have hsplit := imagePart_split s.mem s.dgAddr (min 64 s.dgRem) (s.dgRem - min 64 s.dgRem)
      have htail : imagePart s.mem (s.dgAddr + min 64 s.dgRem) (s.dgRem - min 64 s.dgRem) =
          imagePart s.mem (s.dgAddr + 64) (s.dgRem - min 64 s.dgRem) := by
        by_cases hlast : s.dgRem ≤ 64
        · rw [imagePart_none (by omega), imagePart_none (by omega)]
        · rw [Nat.min_eq_left (by omega)]
      rw [Nat.add_sub_cancel' (Nat.min_le_right _ _), htail] at hsplit
      obtain ⟨a, c, hloop⟩ := ih (s := s.setHash (s.dgAddr + 64) (s.dgRem - min 64 s.dgRem) (imagePart s.mem s.dgAddr 64)
          (hashUpdate s.dgCtx (imagePart s.mem s.dgAddr (min 64 s.dgRem)))) hf
        (show (s.dgAddr + 64) % 64 = 0 by omega) hfl
        (show s.dgAddr + 64 + (s.dgRem - min 64 s.dgRem) ≤ s.cfg.flashSize by omega)
        (show s.dgRem - min 64 s.dgRem ≤ 64 * n by omega)
      refine ⟨a, c, fun u hu => chunk_reaches hf h0 h64 (by omega) (hloop u ?_)⟩
      rw [hsplit, hashUpdate_append] at hu
      exact hu

/-- VerifyImage of an image inside the array, from its start to the verdict (R210 to R215). -/
theorem startVerify_reaches (hf : s.Free) (hsize : s.cfg.codeSizeOffset + 3 ≤ s.cfg.flashSize)
    (hsig : s.cfg.signatOffset + 64 ≤ s.cfg.flashSize) (h64 : s.cfg.flashSize % 64 = 0)
    (hn : imageSize s ≤ s.cfg.flashSize) :
    ∃ a c, (startVerify s).Reaches (judgeImage (storedSignature s) []
      (((s.setSize (imageSize s)).setHash a 0 c (hashUpdate hashInit (canonImage s.mem (imageSize s)))).setDigest
        (sha256 (canonImage s.mem (imageSize s))))) := by
  let v := (s.setSize (imageSize s)).setHash 0 (imageSize s) s.chunk hashInit
  have hv : v.Free := hf
  obtain ⟨a, c, hloop⟩ := chunks_reach (s := v) (rest := []) (imageSize s) hv rfl h64
    (show 0 + imageSize s ≤ s.cfg.flashSize by omega) (show imageSize s ≤ 64 * imageSize s by omega)
  refine ⟨a, c, read_reaches (s := startVerify s) (rest := []) 2 hf rfl hsize ?_⟩
  have hread : useRead .imageSize ([] ++ s.mem.bytes s.cfg.codeSizeOffset (2 + 1)) [] (startVerify s) =
      (s.setSize (imageSize s)).setTodo [.hashInit] := useSize_bytes [] (startVerify s)
  refine hread.symm ▸ .of_primitive (s := (s.setSize (imageSize s)).setTodo [.hashInit]) hf rfl rfl ?_
  refine hloop _ (signature_reaches (hv.of rfl rfl rfl) rfl hsig ?_)
  rw [State.setHash_dgCtx, sha256, ← imagePart_all]
  exact .refl _

end Sys2Proof.Machine
end

