-- ==== Sys2Proof/Laws/Erase.lean ====
section
/-! SUPPORT. ERASE_RANGE (R128): what its sequence comes to, and what that leaves of the array (R130). -/

namespace Sys2Proof.Machine

variable {s u : State}

theorem resetVector_length (m : Memory) : (resetVector m).length = 4 := bytes_length m 0 vecLen

theorem resetVector_getD (m : Memory) {x : Nat} (h : x < 4) : (resetVector m).getD x 0#8 = m.read x := by
  exact (bytes_getD m 0 (n := vecLen) h).trans (by rw [Nat.zero_add])

/-- The array when the loop of ERASE_RANGE starts: block 1 holds the copy of the vector. -/
def backedUp (c : Params) (m : Memory) : Memory := programBytes c (m.eraseBlock 1) backupAddr (resetVector m)

/-- The array once the vector is back at address 0. -/
def restored (c : Params) (m : Memory) : Memory :=
  programBytes c ((backedUp c m).eraseBlock 0) 0 (resetVector m)

/-- The array when the loop has run over `n` further blocks. -/
def rangeErased (c : Params) (m : Memory) (n : Nat) : Memory :=
  (List.range' 1 n).foldl Memory.eraseBlock (restored c m)

/-- The state with an array, the saved vector and what is left to do. -/
def inRangeErase (m : Memory) (v : List Byte) (tasks : List Task) (s : State) : State :=
  ((s.setMem m).setSv v).setTodo tasks

@[simp] theorem inRangeErase_mem (m : Memory) (v : List Byte) (ts : List Task) (s : State) :
    (inRangeErase m v ts s).mem = m := rfl

@[simp] theorem inRangeErase_cfg (m : Memory) (v : List Byte) (ts : List Task) (s : State) :
    (inRangeErase m v ts s).cfg = s.cfg := rfl

@[simp] theorem inRangeErase_sv (m : Memory) (v : List Byte) (ts : List Task) (s : State) :
    (inRangeErase m v ts s).sv = v := rfl

theorem inRangeErase_next (m m' : Memory) (v : List Byte) (ts ts' : List Task) (s : State) :
    ((inRangeErase m v ts s).setMem m').setTodo ts' = inRangeErase m' v ts' s := rfl

/-- ERASE_RANGE to a limit of at least two whole blocks of the array (R128). -/
theorem eraseRange_reaches {limit n : Nat} {rest : List Task} (hf : s.Free) (hq : s.Quiet)
    (ht : s.todo = eraseRangeTasks limit ++ rest) (hn : limit / 64 = n + 1) (hfl : n + 1 ≤ s.cfg.flashSize / 64)
    (h2 : 1 ≤ n) (hu : (inRangeErase (rangeErased s.cfg s.mem n) (resetVector s.mem) rest s).Reaches u) :
    s.Reaches u := by
  have quiet : ∀ m v ts, (inRangeErase m v ts s).Quiet := fun _ _ _ => hq
  have free : ∀ m v ts, (inRangeErase m v ts s).Free := fun _ _ _ => hf
  have hlen := resetVector_length s.mem
  refine read_reaches (rest := rest) 3 hf ht (by omega) ?_
  have hsave : useRead (.vector limit) ([] ++ s.mem.bytes 0 (3 + 1)) rest s =
      inRangeErase s.mem (resetVector s.mem)
        (.erase 1 :: (writeTasks backupAddr (resetVector s.mem) ++ eraseTasks 0 (n + 1) ++ rest)) s := hn ▸ rfl
  rw [hsave]
  refine erase_reaches (free _ _ _) rfl (quiet _ _ _).2.2.1 (by simp [inRangeErase]; omega) ?_
  rw [inRangeErase_next, inRangeErase_mem, List.append_assoc]
  refine writeTasks_reaches (free _ _ _) (quiet _ _ _) rfl (by simp [inRangeErase, hlen, backupAddr]; omega) ?_
  rw [inRangeErase_next, inRangeErase_mem, inRangeErase_cfg]
  refine eraseFrom_reaches (free _ _ _) rfl (quiet _ _ _).2.2.1 (by simp [inRangeErase]; omega) ?_
  rw [inRangeErase_next, inRangeErase_mem, restoreVector, if_pos rfl, inRangeErase_sv, List.append_assoc]
  refine writeTasks_reaches (free _ _ _) (quiet _ _ _) rfl (by simp [inRangeErase, hlen]; omega) ?_
  rw [inRangeErase_next, inRangeErase_mem, inRangeErase_cfg]
  refine eraseTasks_reaches n (free _ _ _) Nat.one_pos rfl (quiet _ _ _).2.2.1 (by simp [inRangeErase]; omega) ?_
  rw [inRangeErase_next, inRangeErase_mem]
  simpa only [rangeErased, restored, backedUp] using hu

/-- What ERASE_RANGE leaves of the array (R130). -/
theorem read_rangeErased (c : Params) (m : Memory) {n : Nat} (h : 1 ≤ n) (x : Nat) :
    (rangeErased c m n).read x =
      if x < 4 then m.read x else if x / 64 < n + 1 then erasedByte else m.read x := by
  simp only [rangeErased, restored, backedUp, read_eraseBlocks, read_programBytes, read_eraseBlock,
    resetVector_length, backupAddr]
  by_cases hx : x < 4
  · rw [if_neg (by omega), if_pos (by omega), if_pos (by omega), programByte_erased, if_pos hx, Nat.sub_zero,
      resetVector_getD m hx]
  · grind

end Sys2Proof.Machine
end

