-- ==== Sys2Proof/Laws/PerInstr.lean ====
section
/-! SUPPORT. Per instruction: its encoding fits its row of the opcode table. A command row's match and mask apply to the
opcode byte of the frame (R94), a wire row's to the byte (R91), a string row gives all the bytes (R98), a response is
one byte (R99). -/

namespace Sys2Proof

/-- A wire frame of some opcode: START first, then the escaped opcode, END last (R92). -/
def isFrameOf (op : Byte) (bytes : List Byte) : Bool :=
  bytes.take (1 + (escape [op]).length) == 0x40#8 :: escape [op] && bytes.getLast? == some 0x0A#8

/-- The bytes fit the instruction's row of spec/opcode_table.json. -/
def fitsRow : Instr → List Byte → Bool
  | .m _, bs           => isFrameOf 0x4D#8 bs
  | .n _, bs           => isFrameOf 0x4E#8 bs
  | .d _, bs           => isFrameOf 0x44#8 bs
  | .x _, bs           => isFrameOf 0x58#8 bs
  | .unknown op _, bs  => isFrameOf op bs && op != 0x4D#8 && op != 0x4E#8 && op != 0x44#8 && op != 0x58#8
  | .byteEscaped _, bs => bs.length == 1
  | .byteEsc, bs       => bs == [0x5C#8]
  | .byteStartResync, bs => bs == [0x40#8]
  | .byteEnd, bs       => bs == [0x0A#8]
  | .byteContent b, bs => bs == [b] && b != 0x5C#8
  | .hsReq, bs         => bs == [0x40#8, 0x42#8, 0x54#8, 0x4C#8, 0x0A#8]
  | .hsRsp, bs         => bs == [0x40#8, 0x4F#8, 0x4B#8, 0x0A#8]
  | .rsp _, bs         => bs.length == 1

/-- Every wire frame starts with START and its opcode and ends with END. -/
theorem isFrameOf_wireFrame (op : Byte) (p : List Byte) : isFrameOf op (wireFrame op p) = true := by
  have h1 : (wireFrame op p).getLast? = some 0x0A#8 := by
    rw [wireFrame, ← List.cons_append, List.getLast?_append]; rfl
  have h2 : escape (op :: p) = escape [op] ++ escape p := by
    by_cases h : isMarker op = true
    · simp [escape, h]
    · simp [escape, h]
  have h3 : (wireFrame op p).take (1 + (escape [op]).length) = 0x40#8 :: escape [op] := by
    rw [wireFrame, h2, Nat.add_comm, List.take_succ_cons, List.append_assoc, List.take_left]
    rfl
  rw [isFrameOf, h1, h3]
  simp

namespace Laws.TableMatch

/-- The encoding of a well-formed instruction fits its row. -/
def Statement (i : Instr) : Prop := ∀ c : Params, i.wellFormed c = true → fitsRow i (encode c i) = true

theorem m (payload : List Byte) : Statement (.m payload) := fun _ _ => isFrameOf_wireFrame _ payload
theorem n (payload : List Byte) : Statement (.n payload) := fun _ _ => isFrameOf_wireFrame _ payload
theorem d (payload : List Byte) : Statement (.d payload) := fun _ _ => isFrameOf_wireFrame _ payload
theorem x (payload : List Byte) : Statement (.x payload) := fun _ _ => isFrameOf_wireFrame _ payload

theorem unknown (op : Byte) (payload : List Byte) : Statement (.unknown op payload) := by
  intro c h
  simp only [Instr.wellFormed, Bool.and_eq_true, Bool.not_eq_true', isCommandOp, Bool.or_eq_false_iff,
    decide_eq_false_iff_not] at h
  simp only [fitsRow, encode, isFrameOf_wireFrame, Bool.true_and, Bool.and_eq_true, bne_iff_ne]
  exact h.2

theorem byteEscaped (b : Byte) : Statement (.byteEscaped b) := fun _ _ => rfl
theorem byteEsc : Statement .byteEsc := fun _ _ => rfl
theorem byteStartResync : Statement .byteStartResync := fun _ _ => rfl
theorem byteEnd : Statement .byteEnd := fun _ _ => rfl

theorem byteContent (b : Byte) : Statement (.byteContent b) := by
  intro c h
  have hb : b ≠ 0x5C#8 := of_decide_eq_true h
  simpa [fitsRow, encode] using hb

theorem hsReq : Statement .hsReq := fun _ _ => rfl
theorem hsRsp : Statement .hsRsp := fun _ _ => rfl
theorem rsp (r : Response) : Statement (.rsp r) := fun _ _ => rfl

end Laws.TableMatch

end Sys2Proof
end

