-- ==== Sys2Proof/Tests/Slice0.lean ====
section
/-! SUPPORT. The model's own tests: ill-formed terms the checks refuse, words written out from the spec's encodings,
single steps from the vectors of 95_test_vectors.md (named V-… there), and for every obligation with hypotheses a state
and operands that meet them. -/

namespace Sys2Proof.Tests

open Sys2Proof Sys2Proof.Machine

/- One theorem after another: their kernel evaluations would else wait for each other in as many threads. -/
set_option Elab.async false

/-! ### Small states -/

/-- EX1 with response bytes of the tests' own and the example vector of 95_test_vectors.md section 0. -/
def ex1 : Params :=
  { Config.launch with
    rspAck := 0x06#8, rspInvalid := 0x15#8, rspDenied := 0x18#8, rspSigValid := 0x11#8, rspSigInvalid := 0x13#8
    vec0 := [0xEF#8, 0x12#8, 0xF0#8, 0x3F#8] }

/-- EX1/8 of 95_test_vectors.md. -/
def ex8 : Params := { ex1 with frameBufSize := 8 }

/-- EX1 with the wrap before the store. -/
def exBefore : Params := { ex8 with framerWrap := .beforeStore }

/-- EX1 with programs that clear bits only. -/
def exAnd : Params := { ex1 with programModel := .and }

/-- EX1 with the 24-bit sum. -/
def exMod : Params := { ex1 with addrSumMode := .mod24 }

/-- An array of four blocks, three of them below the bootloader. -/
def tiny : Params := { ex8 with flashSize := 256, btldOffset := 192 }

def vector : Memory := [(0, 0xEF#8), (1, 0x12#8), (2, 0xF0#8), (3, 0x3F#8)]

/-- HANDSHAKE_WAIT, entered, with the frame buffer filled with zeros. -/
def waiting (c : Params) : State :=
  let s := enterHandshakeWait (State.launch c vector)
  s.setFramer s.frMode s.frIdx (List.replicate c.frameBufSize 0#8)

/-- RECEIVE, entered. -/
def receiving (c : Params) : State := enterReceive (waiting c)

/-- RECEIVE with some bytes of a frame in the buffer. -/
def partFrame (c : Params) (mode : FramerMode) (bytes : List Byte) : State :=
  (receiving c).setFramer mode bytes.length (bytes ++ List.replicate (c.frameBufSize - bytes.length) 0#8)

/-- RECEIVE with bytes waiting. -/
def offered (c : Params) (bytes : List Byte) : State := (receiving c).setRx true bytes

/-- RECEIVE with a complete frame, its command next. -/
def framed (c : Params) (content : List Byte) : State := placeFrame content (receiving c)

/-- ERASE before its work, and before its reply. -/
def erasing (c : Params) (p : Pos) : State := (waiting c).goto .erase p

/-- VERIFY_AND_BOOT before its work. -/
def verifying (c : Params) : State := (waiting c).goto .verifyAndBoot .body

/-- A sequence in progress, in ERASE. -/
def during (c : Params) (ts : List Task) : State := (erasing c .reply).setTodo ts

/-- A sequence in progress, in a command. -/
def commanding (c : Params) (ts : List Task) : State := (framed c [0x4D#8]).setTodo ts

/-- The outcome is a next state with a property. -/
def gives (o : Host.Outcome State Fault Refusal) (p : State → Bool) : Bool :=
  match o with
  | .next t => p t
  | _ => false

/-- The outcome is a fault. -/
def faults (o : Host.Outcome State Fault Refusal) (f : Fault) : Bool :=
  match o with
  | .fault g => g = f
  | _ => false

theorem next_of {o : Host.Outcome State Fault Refusal} {p : State → Bool} (h : gives o p = true) :
    ∃ t, o = .next t ∧ p t = true := by
  cases o with
  | next t => exact ⟨t, rfl, h⟩
  | fault f => exact absurd h Bool.false_ne_true
  | refused r => exact absurd h Bool.false_ne_true

/-- A command starts, and some primitives of its sequence run. -/
def starts (n : Nat) (o : Host.Outcome State Fault Refusal) (p : State → Bool) : Bool :=
  gives o fun t => gives (runSequence n t) p

theorem started {n : Nat} {o : Host.Outcome State Fault Refusal} {p : State → Bool} (h : starts n o p = true) :
    ∃ t u, o = .next t ∧ runSequence n t = .next u ∧ p u = true :=
  let ⟨t, ht, hp⟩ := next_of h
  let ⟨u, hu, hq⟩ := next_of hp
  ⟨t, u, ht, hu, hq⟩

/-! ### Ill-formed terms -/

theorem test_frame_too_long_refused :
    (Instr.m (List.replicate 298 0#8)).wellFormed ex1 = false ∧
    (Instr.n (List.replicate 298 0#8)).wellFormed ex1 = false ∧
    (Instr.d (List.replicate 298 0#8)).wellFormed ex1 = false ∧
    (Instr.x (List.replicate 298 0#8)).wellFormed ex1 = false ∧
    (Instr.unknown 0x51#8 (List.replicate 298 0#8)).wellFormed ex1 = false := by decide +kernel

theorem test_longest_frame_accepted : (Instr.d (List.replicate 297 0#8)).wellFormed ex1 = true := by decide +kernel

theorem test_command_is_not_unknown : (Instr.unknown 0x4D#8 []).wellFormed ex1 = false := by decide

theorem test_escape_is_not_content : (Instr.byteContent 0x5C#8).wellFormed ex1 = false := by decide

/-! ### Decoding: words and frames written out from R91 to R99 -/

/-- The frames of V-D1, V-D16 and V-D20 as they stand on the wire. -/
theorem test_decode_frames :
    decode ex1 .frame [0x40#8, 0x4D#8, 0x00#8, 0x10#8, 0x00#8, 0x0A#8] = .ok (.m [0x00#8, 0x10#8, 0x00#8]) [] ∧
    decode ex1 .frame [0x40#8, 0x4E#8, 0x01#8, 0x5C#8, 0x0A#8, 0x0A#8] = .ok (.n [0x01#8, 0x0A#8]) [] ∧
    decode ex1 .frame [0x40#8, 0x58#8, 0x0A#8] = .ok (.x []) [] ∧
    decode ex1 .frame [0x40#8, 0x51#8, 0x01#8, 0x0A#8] = .ok (.unknown 0x51#8 [0x01#8]) [] ∧
    decode ex1 .frame [0x40#8, 0x6D#8, 0x0A#8] = .ok (.unknown 0x6D#8 []) [] := by decide

/-- V-F2: escaped markers are content; R153: an unescaped START restarts the frame. -/
theorem test_decode_escapes :
    decode ex1 .frame [0x40#8, 0x44#8, 0x03#8, 0x00#8, 0x02#8, 0x00#8, 0x5C#8, 0x5C#8, 0x5C#8, 0x40#8, 0x5C#8, 0x0A#8,
      0x0A#8] = .ok (.d [0x03#8, 0x00#8, 0x02#8, 0x00#8, 0x5C#8, 0x40#8, 0x0A#8]) [] ∧
    decode ex1 .frame [0x40#8, 0x44#8, 0x01#8, 0x40#8, 0x58#8, 0x0A#8, 0x33#8] = .ok (.x []) [0x33#8] := by decide

/-- The opcode table's words, bit by bit. -/
theorem test_decode_words :
    decodeTableWord 8 0b01001101 = some (.m [0#8, 0#8, 0#8]) ∧
    decodeTableWord 8 0b01001110 = some (.n (List.replicate 64 0#8)) ∧
    decodeTableWord 8 0b01000100 = some (.d (List.replicate 8 0#8)) ∧
    decodeTableWord 8 0b01011000 = some (.x []) ∧
    decodeTableWord 8 0b00000000 = some (.unknown 0x00#8 []) ∧
    decodeTableWord 8 0b01011100 = some .byteEsc ∧
    decodeTableWord 8 0b01000000 = some .byteStartResync ∧
    decodeTableWord 8 0b00001010 = some .byteEnd := by decide +kernel

/-- R157: the rows of received bytes. -/
theorem test_decode_wire :
    decode ex1 (.wire .escaped 3 0x40#8) [0x0A#8] = .ok (.byteEscaped 0x0A#8) [] ∧
    decode ex1 (.wire .normal 3 0x40#8) [0x5C#8] = .ok .byteEsc [] ∧
    decode ex1 (.wire .normal 4 0x40#8) [0x40#8] = .ok .byteStartResync [] ∧
    decode ex1 (.wire .normal 0 0x40#8) [0x40#8] = .ok (.byteContent 0x40#8) [] ∧
    decode ex1 (.wire .normal 5 0x40#8) [0x0A#8] = .ok .byteEnd [] ∧
    decode ex1 (.wire .normal 0 0x00#8) [0x0A#8] = .ok (.byteContent 0x0A#8) [] := by decide

/-- R98, R99: the handshake strings and a response. -/
theorem test_decode_strings :
    decode ex1 .request [0x40#8, 0x42#8, 0x54#8, 0x4C#8, 0x0A#8] = .ok .hsReq [] ∧
    decode ex1 .reply [0x40#8, 0x4F#8, 0x4B#8, 0x0A#8] = .ok .hsRsp [] ∧
    decode ex1 .response [0x18#8] = .ok (.rsp .denied) [] ∧
    decode ex1 .response [0x77#8] = .bad .noResponse := by decide

/-- Encodings are rejected by name. -/
theorem test_decode_rejects :
    decode ex1 .frame [0x44#8] = .bad .noStart ∧ decode ex1 .frame [0x40#8, 0x0A#8] = .bad .truncated ∧
    decode ex1 .request [0x40#8, 0x42#8] = .bad .notRequest ∧ decode ex1 .reply [0x40#8] = .bad .notReply := by decide

/-! ### Single steps of the commands and the framer -/

/-- V-D1. -/
theorem test_m_writes_size :
    gives (exec (.m [0x00#8, 0x10#8, 0x00#8]) (framed ex1 [0x4D#8, 0x00#8, 0x10#8, 0x00#8]))
      (fun t => t.todo = [.write 0x7BFD [0x00#8, 0x10#8, 0x00#8], .ret .success] && t.mem = vector) = true := by
  decide +kernel

/-- V-D2. -/
theorem test_m_length :
    gives (exec (.m [0x00#8, 0x10#8]) (framed ex1 [0x4D#8, 0x00#8, 0x10#8]))
      (fun t => t.todo = [] && t.pos = .respond .invalid) = true := by decide +kernel

/-- V-D3: the signature `00 01 .. 3F`. -/
theorem test_n_writes_signature :
    gives (exec (.n ((List.range 64).map (BitVec.ofNat 8))) (receiving ex1))
      (fun t => t.todo = [.write 0x7BBD ((List.range 64).map (BitVec.ofNat 8)), .ret .success]) = true := by decide +kernel

/-- V-D4. -/
theorem test_n_length :
    gives (exec (.n (List.replicate 63 0#8)) (receiving ex1)) (fun t => t.todo = [] && t.st = .invalidPayload) =
      true := by decide +kernel

/-- V-D5, and V-D9: a size of at most 8 writes four bytes. -/
theorem test_d_at_zero :
    gives (step (framed ex1 [0x44#8, 0x0C#8, 0#8, 0#8, 0#8, 0xE0#8, 0xE1#8, 0xE2#8, 0xE3#8, 0xD4#8, 0xD5#8, 0xD6#8,
        0xD7#8, 0xD8#8, 0xD9#8, 0xDA#8, 0xDB#8]))
      (fun t => t.todo = [.write 4 [0xE0#8, 0xE1#8, 0xE2#8, 0xE3#8],
        .write 8 [0xD4#8, 0xD5#8, 0xD6#8, 0xD7#8, 0xD8#8, 0xD9#8, 0xDA#8, 0xDB#8], .ret .success]) = true ∧
    gives (step (framed ex1 [0x44#8, 6#8, 0#8, 0#8, 0#8, 1#8, 2#8, 3#8, 4#8, 5#8, 6#8]))
      (fun t => t.todo = [.write 4 [1#8, 2#8, 3#8, 4#8], .ret .success]) = true := by decide +kernel

/-- V-D7, V-D12 and V-D14: a denied address, a write, and a size of 0. -/
theorem test_d_elsewhere :
    gives (step (framed ex1 (0x44#8 :: 0x10#8 :: 0x00#8 :: 0x7B#8 :: 0xAD#8 :: List.replicate 16 0xAB#8)))
      (fun t => t.todo = [] && t.st = .deniedAddress) = true ∧
    gives (step (framed ex1 [0x44#8, 0x04#8, 0x00#8, 0x01#8, 0x00#8, 0x11#8, 0x22#8, 0x33#8, 0x44#8]))
      (fun t => t.todo = [.write 0x100 [0x11#8, 0x22#8, 0x33#8, 0x44#8], .ret .success]) = true ∧
    gives (step (framed ex1 [0x44#8, 0#8, 0#8, 1#8, 0#8, 0x77#8])) (fun t => t.todo = [.ret .success]) = true := by
  decide +kernel

/-- V-D16. -/
theorem test_x_resets :
    gives (step (framed ex1 [0x58#8])) (fun t => t.out = [.resetRequest] && t.ctl = .doneReset) = true := by
  decide +kernel

/-- V-D15. -/
theorem test_x_payload :
    gives (step (framed ex1 [0x58#8, 0x00#8])) (fun t => t.out = [] && t.pos = .respond .invalid) = true := by
  decide +kernel

/-- V-D20: `@BTL` in RECEIVE is the unknown opcode `B`. -/
theorem test_unknown_opcode :
    gives (step (framed ex1 [0x42#8, 0x54#8, 0x4C#8])) (fun t => t.st = .invalidPayload && t.mem = vector) = true := by
  decide +kernel

/-- The example of R150. -/
theorem test_escaped_byte :
    gives (exec (.byteEscaped 0x0A#8) (partFrame ex1 .escaped [0x40#8, 0x44#8, 1#8, 2#8, 3#8]))
      (fun t => t.buf.getD 5 0#8 = 0x0A#8 && t.frIdx = 6 && t.frMode = .normal) = true := by decide +kernel

/-- The example of R151. -/
theorem test_escape :
    gives (exec .byteEsc (partFrame ex1 .normal [0x40#8, 0x44#8, 1#8])) (fun t => t.frIdx = 3 && t.frMode = .escaped) =
      true := by decide +kernel

/-- V-F3. -/
theorem test_resync :
    gives (exec .byteStartResync (partFrame ex1 .normal [0x40#8, 0x44#8, 0x01#8, 0x02#8]))
      (fun t => t.frIdx = 1 && t.buf.take 4 = [0x40#8, 0x44#8, 0x01#8, 0x02#8]) = true := by decide +kernel

/-- V-F1 and V-F5: END dispatches a frame with an opcode, and has no effect on a START alone. -/
theorem test_frame_end :
    gives (exec .byteEnd (partFrame ex1 .normal [0x40#8, 0x4D#8, 0x00#8, 0x10#8, 0x00#8]))
      (fun t => t.pos = .dispatch && frameInstr t = .m [0x00#8, 0x10#8, 0x00#8]) = true ∧
    gives (exec .byteEnd (partFrame ex1 .normal [0x40#8])) (fun t => t = partFrame ex1 .normal [0x40#8]) = true := by
  decide +kernel

/-- V-F11: the store example of R152. -/
theorem test_store_wraps :
    gives (exec (.byteContent 0x11#8) (partFrame ex8 .normal (List.replicate 7 0x40#8)))
      (fun t => t.frIdx = 0 && t.buf.getD 7 0#8 = 0x11#8) = true := by decide +kernel

/-- V-F10 under BEFORE_STORE: the index counts to the size of the buffer. -/
theorem test_store_before :
    gives (exec (.byteContent 0xBB#8) (partFrame exBefore .normal (List.replicate 7 0x40#8))) (fun t => t.frIdx = 8) =
      true := by decide +kernel

/-- V-H6: the match completes at the last poll. -/
theorem test_handshake_match :
    gives (step (((waiting ex1).setHandshake 4 1).setRx true [0x0A#8])) (fun t => t.ctl = .erase && t.hsBudget = 0) =
      true := by decide +kernel

/-- V-H3: a second START breaks the match and is not tested against the first byte. -/
theorem test_handshake_no_backtracking :
    gives (step (((waiting ex1).setHandshake 1 5).setRx true [0x40#8]))
      (fun t => t.hsMatched = 0 && t.ctl = .handshakeWait) = true := by decide +kernel

/-- V-Q3: the reply. -/
theorem test_reply :
    gives (step (erasing ex1 .reply))
      (fun t => t.todo = [.tx 0x40#8, .tx 0x4F#8, .tx 0x4B#8, .tx 0x0A#8, .enterReceive] && t.ctl = .erase) = true := by
  decide +kernel

/-- R235: after the reply the receiver is on and empty, and the framer starts afresh. -/
theorem test_enter_receive :
    gives (step (during ex1 [.enterReceive]))
      (fun t => t.ctl = .receive && t.pos = .body && t.rxEnable && t.rxq = [] && t.frIdx = 0) = true := by decide +kernel

/-- R235, R301: no byte of the host comes between the reply's last byte and the enabling of the receiver; it is offered
after. -/
theorem test_receiver_on_at_once :
    gives (step ((during ex1 [.enterReceive]).setEnv [.read, .offer 0x40#8]))
      (fun t => t.rxEnable && t.env = [.read, .offer 0x40#8]) = true := by decide +kernel

/-- V-Q1 and V-Q5: a response byte is sent, and what follows it comes after. -/
theorem test_rsp :
    gives (step ((verifying ex1).goto .verifyAndBoot (.respond .sigValid)))
      (fun t => t.todo = [.tx 0x11#8, .after .sigValid] && t.out = []) = true ∧
    gives (step ((receiving ex1).goto .receive (.respond .denied)))
      (fun t => t.todo = [.tx 0x18#8, .after .denied]) = true := by decide +kernel

/-- V-Q1 and V-Q5: what follows the response byte. -/
theorem test_after_response :
    gives (step (((verifying ex1).goto .verifyAndBoot (.respond .sigValid)).setTodo [.after .sigValid]))
      (fun t => t.out = [.jump 4] && t.ctl = .doneJump) = true ∧
    gives (step (((receiving ex1).goto .receive (.respond .denied)).setTodo [.after .denied]))
      (fun t => t.out = [.resetRequest] && t.ctl = .doneReset) = true := by decide +kernel

/-! ### Single primitives -/

/-- R41: a byte is on its way after one step and has arrived after the next. -/
theorem test_transmit :
    gives (step (during ex1 [.tx 0x40#8])) (fun t => t.txFlight = some 0x40#8 && t.out = []) = true ∧
    gives (step ((during ex1 [.tx 0x40#8, .enterReceive]).setFlight (some 0x40#8)))
      (fun t => t.txFlight = none && t.out = [.byte 0x40#8] && t.todo = [.enterReceive]) = true := by decide +kernel

/-- V-S5: a byte inside the array, and one beyond it, which is a draw. -/
theorem test_read_past_end :
    gives (step ((during ex1 [.read 0x7FFF 2 [] .signature]).setMem [(0x7FFF, 9#8)]))
      (fun t => t.todo = [.read 0x8000 1 [9#8] .signature] && t.draws = 300) = true ∧
    gives (step (during ex1 [.read 0x8000 2 [] .signature])) (fun t => t.draws = 301 && t.mem = vector) = true := by
  decide +kernel

/-- R211: `H.init` and `H.update` are steps of their own; the last chunk is truncated, and an empty image has none. -/
theorem test_hash_steps :
    gives (step ((verifying ex1).setTodo [.hashInit])) (fun t => t.dgCtx = hashInit && t.todo = [.hashFinal]) = true ∧
    gives (step (((verifying ex1).setHash 64 36 (List.replicate 64 7#8) hashInit).setTodo [.hashUpdate]))
      (fun t => t.dgAddr = 128 && t.dgRem = 0 && t.dgCtx.count = 36 && t.todo = [.hashFinal]) = true := by decide +kernel

/-- V-S13: a latch load, and the completion of a Commit. -/
theorem test_latch_and_commit :
    gives (step (during ex1 [.write 0x47 [0xAA#8]]))
      (fun t => t.latchBlk = some 1 && t.latchMap = [(7, 0xAA#8)] && t.mem = vector && t.todo = [.commit]) = true ∧
    gives (step (((during ex1 [.commit]).setLatch (some 1) [(7, 0xAA#8)]).setBusy .program))
      (fun t => t.mem = vector ++ [(0x47, 0xAA#8)] && t.latchBlk = none && t.latchMap = [] && t.nvmBusy = .idle) =
      true := by decide +kernel

/-- V-S1 and V-S2: a Commit at a block boundary, and one, not two, where the last byte ends its block. -/
theorem test_write_boundary :
    gives (step (during ex1 [.write 0x3F [2#8, 3#8, 4#8]])) (fun t => t.todo = [.commit, .write 0x40 [3#8, 4#8]]) =
      true ∧
    gives (step (during ex1 [.write 0x7F [2#8]])) (fun t => t.todo = [.commit]) = true := by decide +kernel

/-- V-S4. -/
theorem test_program_models :
    programByte ex1 0x0F#8 0x3C#8 = 0x3C#8 ∧ programByte exAnd 0x0F#8 0x3C#8 = 0x0C#8 := by decide

/-- V-S11: the byte beyond the array faults; the state before holds what was committed. -/
theorem test_write_past_end :
    gives (step (((during ex1 [.commit, .write 0x8000 [3#8]]).setLatch (some 511) [(62, 1#8), (63, 2#8)]).setBusy .program))
      (fun t => t.mem = vector ++ [(0x7FFE, 1#8), (0x7FFF, 2#8)] && faults (step t) .programOutOfRange) = true := by
  decide +kernel

/-- V-S6, steps 1 to 3. -/
theorem test_vector_saved :
    gives (step (during ex1 [.read 3 1 [0xEF#8, 0x12#8, 0xF0#8] (.vector 0x7C00)]))
      (fun t => t.sv = [0xEF#8, 0x12#8, 0xF0#8, 0x3F#8] &&
        t.todo = [.erase 1, .write 64 [0xEF#8, 0x12#8, 0xF0#8, 0x3F#8], .eraseFrom 0 496]) = true := by decide +kernel

/-- V-S6, steps 4 to 6: the vector goes back right after the erase of block 0, and the loop goes on. -/
theorem test_erase_loop :
    gives (step ((during ex1 [.eraseFrom 0 496]).setSv [0xEF#8, 0x12#8, 0xF0#8, 0x3F#8]))
      (fun t => t.nvmBusy = .erase 0 &&
        t.todo = [.erase 0, .write 0 [0xEF#8, 0x12#8, 0xF0#8, 0x3F#8], .eraseFrom 1 495]) = true ∧
    gives (step (during ex1 [.eraseFrom 495 1])) (fun t => t.nvmBusy = .erase 495 && t.todo = [.erase 495]) = true := by
  decide +kernel

/-- The end of an erase, and V-S10. -/
theorem test_erase_block :
    gives (step (((during ex1 [.erase 1]).setMem (vector ++ [(64, 1#8), (127, 2#8), (128, 3#8)])).setBusy (.erase 1)))
      (fun t => t.mem = vector ++ [(128, 3#8)] && t.nvmBusy = .idle && t.todo = []) = true ∧
    faults (step (during ex1 [.erase 512])) .eraseOutOfRange = true := by decide +kernel

/-- R180: the status a command returns. -/
theorem test_command_returns :
    gives (step (commanding ex1 [.ret .success])) (fun t => t.st = .success && t.pos = .respond .ack && t.todo = []) =
      true := by decide +kernel

/-- V-G2 and V-G3: the digests the spec gives. -/
theorem test_digests :
    sha256 [] = [0xe3#8, 0xb0#8, 0xc4#8, 0x42#8, 0x98#8, 0xfc#8, 0x1c#8, 0x14#8, 0x9a#8, 0xfb#8, 0xf4#8, 0xc8#8, 0x99#8,
      0x6f#8, 0xb9#8, 0x24#8, 0x27#8, 0xae#8, 0x41#8, 0xe4#8, 0x64#8, 0x9b#8, 0x93#8, 0x4c#8, 0xa4#8, 0x95#8, 0x99#8,
      0x1b#8, 0x78#8, 0x52#8, 0xb8#8, 0x55#8] ∧
    sha256 [0xA1#8, 0xB2#8, 0xC3#8, 0xD4#8, 0xFF#8] = [0x05#8, 0x65#8, 0x6f#8, 0x73#8, 0xd0#8, 0xe7#8, 0xf2#8, 0x47#8,
      0x30#8, 0xf4#8, 0x46#8, 0x34#8, 0x17#8, 0x48#8, 0x16#8, 0x78#8, 0xb9#8, 0xa9#8, 0xa6#8, 0x91#8, 0x4a#8, 0x25#8,
      0x1a#8, 0x71#8, 0xc3#8, 0xee#8, 0x88#8, 0xb8#8, 0xa9#8, 0xd2#8, 0x0a#8, 0x6b#8] := by decide +kernel

/-- V-R2: a reset that finds another vector. -/
theorem test_no_bootloader :
    faults (step (((receiving ex1).setMem [(0, 0xEF#8), (1, 0#8), (2, 0#8), (3, 0#8)]).goto .doneReset .body))
      .noBootloader = true := by decide +kernel

/-! ### Witnesses: states and operands that meet the hypotheses of each obligation -/

theorem witness_EncodedInstructionsDecode :
    (Instr.d (List.replicate 297 0x40#8)).wellFormed ex1 = true ∧ (Instr.unknown 0x5C#8 []).wellFormed ex1 = true ∧
    (Instr.byteContent 0x0A#8).wellFormed ex1 = true ∧ ex1.responsesDistinct = true := by decide +kernel

theorem witness_EscapedByteIsStored :
    (partFrame ex8 .escaped []).frMode = .escaped ∧
    (ex8.framerWrap = .afterStore ∧ (partFrame ex8 .escaped (List.replicate 7 0#8)).frIdx + 1 = ex8.frameBufSize) ∧
    (exBefore.framerWrap = .beforeStore ∧
      (partFrame exBefore .escaped (List.replicate 8 0#8)).frIdx = exBefore.frameBufSize) := by decide +kernel

theorem witness_EscapeByteIsConsumed : (receiving ex8).frMode = .normal := by decide +kernel

theorem witness_StartResynchronises :
    (partFrame ex8 .normal [0x33#8]).frMode = .normal ∧ 0 < (partFrame ex8 .normal [0x33#8]).frIdx ∧
    (receiving ex8).frMode = .normal ∧ (receiving ex8).frIdx = 0 ∧ 2 ≤ (receiving ex8).cfg.frameBufSize := by
  decide +kernel

theorem witness_EndDispatchesFrame :
    (partFrame ex8 .normal [0x40#8, 0x58#8]).frMode = .normal ∧
    (partFrame ex8 .normal [0x40#8, 0x58#8]).buf.getD 0 0#8 = startByte ∧
    2 ≤ (partFrame ex8 .normal [0x40#8, 0x58#8]).frIdx ∧ (partFrame ex8 .normal [0x40#8]).frIdx < 2 := by decide +kernel

theorem witness_ContentByteIsStored :
    ((0x33#8 : Byte) ≠ escByte ∧ (0x33#8 : Byte) ≠ startByte ∧ (0x33#8 : Byte) ≠ endByte) ∧
    (receiving ex8).frMode = .normal ∧ (receiving ex8).frIdx = 0 ∧
    (receiving ex8).buf.getD 0 0#8 ≠ startByte ∧
    (ex8.framerWrap = .afterStore ∧ (partFrame ex8 .normal (List.replicate 7 0#8)).frIdx + 1 = ex8.frameBufSize) ∧
    (exBefore.framerWrap = .beforeStore ∧
      (partFrame exBefore .normal (List.replicate 8 0#8)).frIdx = exBefore.frameBufSize) := by decide +kernel

/-- The longest frame of EX1/8, after a partial frame, with markers in its payload. -/
theorem witness_EscapedFrameIsReceived :
    let p : List Byte := [0x40#8, 0x0A#8, 0x5C#8, 0x01#8, 0x02#8]
    let s := (partFrame ex8 .normal [0x33#8, 0x34#8]).setRx true (wireFrame 0x44#8 p ++ [0x0A#8])
    s.Alone ∧ s.todo = [] ∧ s.ctl = .receive ∧ s.pos = .body ∧ s.frMode = .normal ∧ s.rxEnable = true ∧
      s.rxq = wireFrame 0x44#8 p ++ [0x0A#8] ∧ s.buf.length = s.cfg.frameBufSize ∧ 2 ≤ s.cfg.frameBufSize ∧
      s.cfg.frameFits p = true ∧ s.cfg.frameFits (p ++ [0#8]) = false := by decide +kernel

/-- A READ that ends with the array, and one of two bytes beyond it. -/
theorem witness_ReadTakesAStepPerByte :
    ((during tiny []).Alone ∧ (during tiny []).ctl ≠ .doneJump) ∧
    ((during tiny [.read 253 3 [] .imageSize]).todo = .read 253 3 [] .imageSize :: [] ∧ 253 + 3 = tiny.flashSize) ∧
    (during tiny [.read 256 2 [] .imageSize]).todo = .read 256 2 [] .imageSize :: [] ∧ tiny.flashSize ≤ 256 := by
  decide +kernel

/-- Beyond the array, for another block, and for the latch empty and holding the block. -/
theorem witness_WriteLoadsItsNextByte :
    let s := during tiny [.write 255 [1#8]]
    s.Alone ∧ s.ctl ≠ .doneJump ∧ s.todo = .write 255 [1#8] :: [] ∧
    ((during tiny [.write 256 [1#8]]).todo = .write 256 [1#8] :: [] ∧ tiny.flashSize ≤ 256) ∧
    (255 < tiny.flashSize ∧ (s.setLatch (some 2) [(63, 0#8)]).latchBlk = some 2 ∧ 2 ≠ 255 / 64) ∧
    s.latchBlk = none ∧ (s.setLatch (some 3) [(62, 0#8)]).latchBlk = some (255 / 64) := by decide +kernel

theorem witness_CommitProgramsLatchedBytes :
    let s := (during tiny [.commit]).setLatch (some 1) [(7, 0xAA#8), (63, 0xBB#8)]
    s.Alone ∧ s.ctl ≠ .doneJump ∧ s.todo = .commit :: [] ∧ s.latchBlk = some 1 ∧ cellsSorted s.latchMap = true ∧
    s.nvmBusy = .idle ∧ (s.setBusy .program).nvmBusy = .program := by decide +kernel

theorem witness_ProgramModels : ex1.programModel = .overwrite ∧ exAnd.programModel = .and := by decide

theorem witness_EraseSetsOneBlock :
    (during tiny [.erase 3]).Alone ∧ (during tiny [.erase 3]).ctl ≠ .doneJump ∧
    ((during tiny [.erase 4]).todo = .erase 4 :: [] ∧ tiny.flashSize / 64 ≤ 4 ∧ (during tiny [.erase 4]).nvmBusy = .idle) ∧
    (during tiny [.erase 3]).todo = .erase 3 :: [] ∧ 3 < tiny.flashSize / 64 ∧
    ((during tiny [.erase 3]).setBusy (.erase 3)).nvmBusy = .erase 3 := by decide +kernel

/-- Across a block boundary, up to the end of the array, and under `AND`. -/
theorem witness_ReadBackAfterWrite :
    let s := during tiny (writeTasks 190 [1#8, 2#8, 3#8])
    (s.Alone ∧ s.ctl ≠ .doneJump ∧ s.Quiet ∧ s.todo = writeTasks 190 [1#8, 2#8, 3#8]) ∧ 190 + 3 ≤ tiny.flashSize ∧
    253 + 3 = tiny.flashSize ∧ tiny.programModel = .overwrite ∧
    (during exAnd []).Alone ∧ (during exAnd []).Quiet ∧ exAnd.programModel = .and := by decide +kernel

/-- The least limit and the largest. -/
theorem witness_EraseRangeKeepsVector :
    let s := during tiny (eraseRangeTasks 128)
    (s.Alone ∧ s.ctl ≠ .doneJump ∧ s.Quiet ∧ s.todo = eraseRangeTasks 128) ∧ 128 % 64 = 0 ∧ 128 ≤ tiny.flashSize ∧
    (during tiny (eraseRangeTasks 256)).todo = eraseRangeTasks 256 ∧ tiny.flashSize % 64 = 0 := by decide +kernel

/-- Inside the erase of block 0: the backup is written, power fails (V-S14). -/
def losingBlock0 : State :=
  ((((during tiny [.erase 0, .write 0 ex1.vec0, .eraseFrom 1 2]).setSv ex1.vec0).setBusy (.erase 0)).setMem
    (vector ++ [(64, 0xEF#8), (65, 0x12#8), (66, 0xF0#8), (67, 0x3F#8)])).setEnv [.powerFail]

theorem witness_PowerFailureLeavesVectorCopy :
    losingBlock0.Inv ∧ losingBlock0.VectorKept ∧ (losingBlock0.powered = true ∧ losingBlock0.ctl = .erase) ∧
    ∃ t, step losingBlock0 = .next t ∧ (!t.powered) = true :=
  ⟨by decide +kernel, fun _ => ⟨nofun, fun _ => ⟨rfl, rfl, rfl, .inr ⟨rfl, by decide +kernel, rfl⟩⟩⟩,
    by decide +kernel, next_of (by decide +kernel)⟩

theorem witness_PowerFailureEffects :
    let s := (during tiny [.commit]).setLatch (some 1) [(7, 0xAA#8)]
    s.nvmBusy = .idle ∧
    ((s.setBusy .program).nvmBusy = .program ∧ s.latchBlk = some 1 ∧ 71 ∈ exposedAddrs (s.setBusy .program)) ∧
    (((during tiny [.erase 2]).setBusy (.erase 2)).nvmBusy = .erase 2 ∧ 191 / 64 = 2 ∧ 192 / 64 ≠ 2 ∧
      191 ∈ exposedAddrs ((during tiny [.erase 2]).setBusy (.erase 2))) ∧
    (s.setEnv [.powerFail]).env = .powerFail :: [] ∧ s.inStep = false ∧ s.ctl ≠ .doneJump := by decide +kernel

/-- The completion, with a byte that waits to be offered too, and a power failure. -/
theorem witness_CycleHolds :
    let s := (during tiny [.erase 2]).setBusy (.erase 2)
    (s.Inv ∧ s.powered = true ∧ s.nvmBusy ≠ .idle) ∧
    (gives (step s) (fun t => t.nvmBusy = .idle) &&
      gives (step (s.setEnv [.offer 0#8])) (fun t => t.nvmBusy = .idle && t.env = [.offer 0#8]) &&
      gives (step (s.setEnv [.powerFail])) fun t => !t.powered) = true := by decide +kernel

theorem witness_PayloadBytesComeFromBuffer :
    (partFrame ex8 .normal [0x40#8, 0x44#8]).buf.length = ex8.frameBufSize ∧
    (partFrame ex8 .normal [0x40#8, 0x44#8]).frIdx ≤ ex8.frameBufSize ∧ 2 + 5 < ex8.frameBufSize ∧
    ¬ 2 + 6 < ex8.frameBufSize := by decide +kernel

theorem witness_SizeCommand :
    let s := framed ex1 [0x4D#8, 1#8, 2#8, 3#8]
    s.cfg.Wf ∧ s.Alone ∧ s.ctl ≠ .doneJump ∧ s.Settled ∧ [1#8, 2#8, 3#8].length = 3 ∧ [1#8, 2#8].length ≠ 3 ∧
    [1#8, 2#8, 3#8, 4#8].length ≠ 3 := by decide +kernel

theorem witness_SignatureCommand :
    (receiving ex1).cfg.Wf ∧ (receiving ex1).Alone ∧ (receiving ex1).ctl ≠ .doneJump ∧ (receiving ex1).Settled ∧
    (List.replicate 64 1#8).length = 64 ∧ (List.replicate 63 1#8).length ≠ 64 := by decide +kernel

/-- V-D7 at the bound itself, and V-D13 under EXACT. -/
theorem witness_DataCommandRejected :
    [0#8, 0#8, 0#8, 0#8].length < 5 ∧ [0x77#8] ≠ [] ∧
    (ex1.addrSumMode = .exact ∧ ex1.signatOffset ≤ be24 0x00#8 0x7B#8 0xAD#8 + (0x10#8 : Byte).toNat) ∧
    (exMod.addrSumMode = .mod24 ∧
      exMod.signatOffset ≤ (be24 0x00#8 0x7B#8 0xAD#8 + (0x10#8 : Byte).toNat) % 2 ^ 24) := by decide +kernel

/-- The largest size that passes in a small array, and the sizes where the second write starts. -/
theorem witness_DataCommandAtZero :
    (receiving tiny).cfg.Wf ∧ (receiving tiny).Alone ∧ (receiving tiny).ctl ≠ .doneJump ∧ (receiving tiny).Settled ∧
    [0x99#8] ≠ [] ∧ (124#8 : Byte).toNat < tiny.signatOffset ∧ ¬ (125#8 : Byte).toNat < tiny.signatOffset ∧
    (8#8 : Byte).toNat < tiny.signatOffset ∧ (0#8 : Byte).toNat < tiny.signatOffset := by decide +kernel

/-- V-D8 at the bound, V-D14, V-D11, and under MOD24 a range that ends with the array. -/
theorem witness_DataCommandElsewhere :
    ((receiving ex1).cfg.Wf ∧ (receiving ex1).Alone ∧ (receiving ex1).ctl ≠ .doneJump ∧ (receiving ex1).Settled) ∧
    [0x11#8] ≠ [] ∧
    (be24 0x00#8 0x7B#8 0xAD#8 ≠ 0 ∧ dSum ex1 (be24 0x00#8 0x7B#8 0xAD#8) (0x0F#8 : Byte).toNat < ex1.signatOffset ∧
      ex1.addrSumMode = .exact) ∧
    (be24 0#8 0#8 1#8 ≠ 0 ∧ dSum ex1 (be24 0#8 0#8 1#8) (0#8 : Byte).toNat < ex1.signatOffset) ∧
    dSum exMod (be24 0#8 1#8 0#8) (4#8 : Byte).toNat < exMod.signatOffset ∧
      be24 0#8 1#8 0#8 + (4#8 : Byte).toNat ≤ exMod.flashSize := by decide +kernel

/-- V-D13, and an array of the whole 24-bit space, where a D ends beyond the top. -/
theorem witness_WrappedDataCommandFaults :
    ((receiving exMod).cfg.Wf ∧ (receiving exMod).Alone ∧ (receiving exMod).ctl ≠ .doneJump ∧ (receiving exMod).Settled) ∧
    [0xAB#8] ≠ [] ∧ be24 0xFF#8 0xFF#8 0xF8#8 ≠ 0 ∧
    dSum exMod (be24 0xFF#8 0xFF#8 0xF8#8) (0x10#8 : Byte).toNat < exMod.signatOffset ∧
    exMod.flashSize < be24 0xFF#8 0xFF#8 0xF8#8 + (0x10#8 : Byte).toNat ∧
    ({ exMod with flashSize := 2 ^ 24 }).Wf ∧ 2 ^ 24 < be24 0xFF#8 0xFF#8 0xF8#8 + (0x10#8 : Byte).toNat := by
  decide +kernel

theorem witness_StopCommand : ([0x00#8] : List Byte) ≠ [] := by decide

theorem witness_UnknownOpcode :
    (0x51#8 : Byte) ≠ 0x4D#8 ∧ (0x51#8 : Byte) ≠ 0x4E#8 ∧ (0x51#8 : Byte) ≠ 0x44#8 ∧ (0x51#8 : Byte) ≠ 0x58#8 := by
  decide

/-- An address next to the one to be written, while the byte enters the latch. -/
theorem witness_StepsStayOnTarget :
    let s := commanding tiny [.write 4 [1#8], .ret .success]
    s.Inv ∧ s.pending 5 = false ∧ s.pending 4 = true ∧ gives (step s) (fun t => t.pending 4 && !t.pending 5) = true := by
  decide +kernel

/-- The state before a command. -/
def commandNext (c : Params) : State := framed c [0x4D#8]

theorem witness_command :
    (commandNext tiny).Inv ∧ (commandNext tiny).todo = [] ∧ (commandNext tiny).ctl = .receive ∧
    (commandNext tiny).pos = .dispatch := by decide +kernel

/-- Each command's own clause: it starts, and an address next to its target lies outside it. -/
theorem witness_CommandWritesConfined :
    ((∃ t u, exec (.m [1#8, 2#8, 3#8]) (commandNext tiny) = .next t ∧ runSequence 2 t = .next u ∧
        decide (u.todo = [.write 191 [3#8], .ret .success]) = true) ∧ tiny.codeSizeOffset - 1 = 188) ∧
    ((∃ t u, exec (.n (List.replicate 64 0#8)) (commandNext tiny) = .next t ∧ runSequence 1 t = .next u ∧
        decide (u.latchMap ≠ []) = true) ∧ tiny.signatOffset - 1 = 124) ∧
    ((∃ t u, exec (.d [9#8, 0#8, 0#8, 0#8, 1#8]) (commandNext tiny) = .next t ∧ runSequence 1 t = .next u ∧
        decide (u.latchMap ≠ []) = true) ∧
      dAddr [9#8, 0#8, 0#8, 0#8, 1#8] (commandNext tiny) = 0 ∧
      ¬ (4 ≤ 13 ∧ 13 < max 8 (dSize [9#8, 0#8, 0#8, 0#8, 1#8] (commandNext tiny) + 4))) ∧
    ((∃ t u, exec (.d [1#8, 0#8, 0#8, 4#8, 1#8]) (commandNext tiny) = .next t ∧ runSequence 4 t = .next u ∧
        decide (u.mem = vector ++ [(4, 1#8)] ∧ u.todo = []) = true) ∧
      dAddr [1#8, 0#8, 0#8, 4#8, 1#8] (commandNext tiny) ≠ 0) ∧
    (∃ t u, exec (.x []) (commandNext tiny) = .next t ∧ runSequence 0 t = .next u ∧ true = true) ∧
    ∃ t u, exec (.unknown 0#8 []) (commandNext tiny) = .next t ∧ runSequence 0 t = .next u ∧ true = true :=
  ⟨⟨started (by decide +kernel), rfl⟩, ⟨started (by decide +kernel), rfl⟩,
    ⟨started (p := fun u => u.latchMap ≠ []) (by decide +kernel), rfl, by decide +kernel⟩,
    ⟨started (by decide +kernel), by decide +kernel⟩,
    started (p := fun _ => true) (by decide +kernel), started (p := fun _ => true) (by decide +kernel)⟩

/-- The accepted frame that comes closest to the record (V-D8). -/
theorem witness_SignatureRecordProtected :
    ((commandNext ex1).Inv ∧ (commandNext ex1).todo = [] ∧ (commandNext ex1).ctl = .receive ∧
      (commandNext ex1).pos = .dispatch ∧ ex1.addrSumMode = .exact ∧ ex1.P1 ∧ ex1.signatOffset ≤ 0x7BBD ∧
      0x7BBD < ex1.btldOffset) ∧
    ∃ t u, exec (.d [0x0F#8, 0x00#8, 0x7B#8, 0xAD#8, 0x11#8]) (commandNext ex1) = .next t ∧
      runSequence 1 t = .next u ∧ decide (u.latchMap = [(45, 0x11#8)]) = true :=
  ⟨by decide +kernel, started (by decide +kernel)⟩

/-- A `D` frame at address 4, and one at address 0. -/
theorem witness_ResetVectorProtected :
    (tiny.addrSumMode = .exact ∧ 4 ≤ dAddr [1#8, 0#8, 0#8, 4#8, 1#8] (commandNext tiny) ∧
      dAddr [1#8, 0#8, 0#8, 0#8, 1#8] (commandNext tiny) = 0 ∧ 5 ≤ [1#8, 0#8, 0#8, 4#8, 1#8].length) ∧
    (∃ t u, exec (decodeCommand opD [1#8, 0#8, 0#8, 4#8, 1#8]) (commandNext tiny) = .next t ∧
      runSequence 1 t = .next u ∧ decide (u.latchBlk = some 0) = true) ∧
    ∃ t u, exec (decodeCommand opD [1#8, 0#8, 0#8, 0#8, 1#8]) (commandNext tiny) = .next t ∧
      runSequence 1 t = .next u ∧ decide (u.latchBlk = some 0) = true :=
  ⟨by decide +kernel, started (by decide +kernel), started (by decide +kernel)⟩

theorem witness_FailedCommandWroteNothing :
    ∃ t u, exec (decodeCommand opD [1#8, 0xFF#8, 0#8, 0#8, 1#8]) (commandNext tiny) = .next t ∧
      runSequence 0 t = .next u ∧ decide (u.todo = [] ∧ u.powered = true ∧ u.st ≠ .success) = true :=
  started (by decide +kernel)

theorem witness_Canonicalization : (List.replicate 64 0#8 : List Byte).length = 64 := by decide

/-- An image as large as the array. -/
theorem witness_VerifyHashesCanonicalImage :
    let s := (verifying ex1).setMem (vector ++ [(0x7BFD, 0x00#8), (0x7BFE, 0x80#8), (0x7BFF, 0x00#8)])
    s.cfg.Wf ∧ s.Settled ∧ s.Alone ∧ s.ctl = .verifyAndBoot ∧ s.pos = .body ∧ imageSize s = s.cfg.flashSize := by
  decide +kernel

/-- An erased size field. -/
theorem witness_VerifyAlwaysAnswers :
    (verifying ex1).cfg.Wf ∧ (verifying ex1).Settled ∧ (verifying ex1).Alone ∧ (verifying ex1).ctl = .verifyAndBoot ∧
    (verifying ex1).pos = .body ∧ ex1.flashSize < imageSize (verifying ex1) := by decide +kernel

/-- A verification of an image inside the array comes to its end. -/
theorem verify_ends {s : State} (hf : s.Free) (ht : s.todo = []) (hc : s.ctl = .verifyAndBoot) (hp : s.pos = .body)
    (hsize : s.cfg.codeSizeOffset + 3 ≤ s.cfg.flashSize) (hsig : s.cfg.signatOffset + 64 ≤ s.cfg.flashSize)
    (h64 : s.cfg.flashSize % 64 = 0) (hn : imageSize s ≤ s.cfg.flashSize) :
    ∃ t u, step s = .next t ∧ t.Finishes u := by
  obtain ⟨a, c, hend⟩ := startVerify_reaches hf hsize hsig h64 hn
  refine ⟨startVerify s, _, ?_, hend.finishes rfl⟩
  rw [step_fetch hf.1 hf.2 ht]
  simp only [fetchTurn, hc, hp, Turn.outcome]

/-- V-G3 and V-G7: images of five bytes that differ in the reset vector. -/
theorem witness_DigestDependsOnCanonicalBytes :
    let record : Memory := [(4, 0xA1#8), (0x7BFD, 0x00#8), (0x7BFE, 0x00#8), (0x7BFF, 0x05#8)]
    let s := (verifying ex1).setMem (vector ++ record)
    let r := (verifying ex1).setMem record
    (s.cfg.Wf ∧ s.Settled ∧ s.Alone ∧ s.ctl = .verifyAndBoot ∧ s.pos = .body ∧ r.cfg = s.cfg ∧ r.Settled ∧ r.Alone ∧
      r.ctl = .verifyAndBoot ∧ r.pos = .body ∧ imageSize s ≤ s.cfg.flashSize ∧ imageSize r = imageSize s ∧
      ¬ 8 < imageSize s) ∧
    (∀ i, i < min 4 (imageSize s) → r.mem.read (4 + i) = s.mem.read (4 + i)) ∧
    (∃ t u, step s = .next t ∧ t.Finishes u) ∧ ∃ t u, step r = .next t ∧ t.Finishes u := by
  intro record s r
  have same : ∀ i, i < 4 → r.mem.read (4 + i) = s.mem.read (4 + i) := by decide +kernel
  have fields : (s.cfg.codeSizeOffset + 3 ≤ s.cfg.flashSize ∧ s.cfg.signatOffset + 64 ≤ s.cfg.flashSize) ∧
      s.cfg.flashSize % 64 = 0 := by decide +kernel
  have ends : ∀ q, q.cfg = s.cfg → q.Settled ∧ q.Alone ∧ q.ctl = .verifyAndBoot ∧ q.pos = .body ∧
      imageSize q ≤ q.cfg.flashSize → ∃ t u, step q = .next t ∧ t.Finishes u := by
    intro q hcfg ⟨hs, ha, hc, hp, hn⟩
    rw [← hcfg] at fields
    exact verify_ends ⟨ha, hc ▸ nofun⟩ hs.2 hc hp fields.1.1 fields.1.2 fields.2 hn
  exact ⟨by decide +kernel, fun i hi => same i (by omega), ends s rfl (by decide +kernel), ends r rfl (by decide +kernel)⟩

theorem witness_HandshakeEntry :
    ((State.launch ex1 vector).Alone ∧ (State.launch ex1 vector).todo = [] ∧
      (State.launch ex1 vector).ctl = .handshakeWait ∧ (State.launch ex1 vector).pos = .entry) ∧
    resetBlock (State.launch ex1 vector) = .next (volatileReset (State.launch ex1 vector)) :=
  ⟨by decide +kernel, if_pos (by decide +kernel)⟩

theorem witness_HandshakePoll :
    ((waiting ex1).setHandshake 0 0).hsBudget = 0 ∧ 0 < (waiting ex1).hsBudget ∧
    ((waiting ex1).rxq = [] ∧ (State.launch ex1 vector).rxEnable = false) ∧
    ((waiting ex1).setRx true [0x40#8]).rxq = 0x40#8 :: [] ∧ ((waiting ex1).setRx true [0x40#8]).rxEnable = true ∧
    hsReqBytes[(waiting ex1).hsMatched]? = some 0x40#8 ∧
    (hsReqBytes[((waiting ex1).setHandshake 3 1).hsMatched]? = some 0x4C#8 ∧ 3 < 4) ∧
    hsReqBytes[((waiting ex1).setHandshake 4 1).hsMatched]? = some 0x0A#8 ∧
    hsReqBytes[((waiting ex1).setHandshake 1 1).hsMatched]? ≠ some 0x40#8 := by decide +kernel

theorem witness_HandshakeWaitEnds :
    (waiting ex1).Alone ∧ (waiting ex1).todo = [] ∧ (waiting ex1).ctl = .handshakeWait ∧ (waiting ex1).pos = .body := by
  decide +kernel

theorem witness_EraseStateErases :
    (erasing tiny .body).cfg.Wf ∧ (erasing tiny .body).Settled ∧ (erasing tiny .body).Alone ∧
    (erasing tiny .body).ctl = .erase ∧ (erasing tiny .body).pos = .body := by decide +kernel

/-- For HandshakeResponse, Acknowledgment, ErrorReport and VerdictResponse: the block is alone and settled. -/
theorem witness_responses :
    ((erasing ex1 .reply).Alone ∧ (erasing ex1 .reply).ctl ≠ .doneJump ∧ (erasing ex1 .reply).Settled) ∧
    ((receiving ex1).setPos (.respond .ack)).Alone ∧ (receiving ex1).ctl ≠ .doneJump ∧
    ((receiving ex1).setPos (.respond .denied)).Settled ∧ ((verifying ex1).setPos (.respond .sigValid)).Alone ∧
    ((verifying ex1).setPos (.respond .sigInvalid)).Settled ∧ (verifying ex1).ctl ≠ .doneJump := by decide +kernel

theorem witness_TransmitDelivers :
    let s := during ex1 [.tx 0x40#8]
    s.Alone ∧ s.ctl ≠ .doneJump ∧ s.todo = .tx 0x40#8 :: [] ∧ s.txFlight = none ∧
    (s.setFlight (some 0x40#8)).txFlight = some 0x40#8 := by decide +kernel

theorem witness_NoStepAfterTransfer : (transferControl appEntry (verifying ex1)).ctl = .doneJump := by decide +kernel

theorem witness_SilentReceiveWaits :
    ((receiving ex1).Alone ∧ (receiving ex1).todo = [] ∧ (receiving ex1).ctl = .receive ∧ (receiving ex1).pos = .body) ∧
    (receiving ex1).rxq = [] ∧ ((receiving ex1).setRx false [0x40#8]).rxEnable = false := by decide +kernel

/-- A spent budget, and the end of the reply. -/
theorem witness_ControlTransitions :
    let s := (waiting ex1).setHandshake 0 0
    let r := during ex1 [.enterReceive]
    (legalPos s.ctl s.pos = true ∧ legalTodo s.cfg s.ctl s.pos s.todo = true ∧ s.powered = true ∧
      legalPos r.ctl r.pos = true ∧ legalTodo r.cfg r.ctl r.pos r.todo = true ∧ r.powered = true) ∧
    (gives (step s) (fun t => t.powered && t.ctl = .verifyAndBoot) &&
      gives (step r) fun t => t.powered && t.ctl = .receive) = true := by decide +kernel

theorem witness_OnePrimitivePerStep :
    let s := during tiny [.write 4 [1#8]]
    (s.powered = true ∧ s.ctl ≠ .doneJump ∧ s.todo = .write 4 [1#8] :: [] ∧ s.env = [] ∧ s.inStep = false) ∧
    (during tiny [.enterReceive]).inStep = true ∧ (s.nvmBusy = .idle ∧ s.txFlight = none) ∧
    (s.setFlight (some 0#8)).txFlight ≠ none ∧
    (s.setEnv [.run]).env = .run :: [] ∧ (s.setEnv [.offer 0#8, .run]).env = .offer 0#8 :: [.run] ∧
    (s.setEnv [.read]).env = .read :: [] ∧ (s.setEnv [.powerFail]).env = .powerFail :: [] := by decide +kernel

theorem witness_ResetRestartsBlock :
    (resetDevice (receiving ex1)).env = [] ∧ (resetDevice (receiving ex1)).todo = [] ∧
    (resetDevice (receiving ex1)).ctl = .doneReset ∧
    resetVector (receiving ex1).mem = ex1.vec0 ∧ (powerFail (during ex1 [.erase 1])).env = [] ∧
    (powerFail (during ex1 [.erase 1])).todo = [] ∧ (powerFail (receiving ex1)).powered = false ∧
    (powerFail (receiving ex1)).ctl ≠ .doneJump ∧ resetVector ((receiving ex1).setMem []).mem ≠ ex1.vec0 := by
  decide +kernel

/-- A response has been sent and read; what follows it is next. -/
def answered (r : Response) : State := ((receiving ex1).setPos (.respond r)).setTodo [.after r]

theorem witness_HostOffers :
    let offer (s : State) : State := s.setEnv [.offer 0x40#8]
    ((offer (waiting ex1)).env = .offer 0x40#8 :: [] ∧ (offer (waiting ex1)).ctl ≠ .doneJump ∧
      (offer (waiting ex1)).inStep = false ∧ (offer (waiting ex1)).held = false) ∧
    ((State.launch ex1 vector).inStep = false ∧ (State.launch ex1 vector).held = false ∧
      (receiving ex1).inStep = false ∧ (receiving ex1).held = false) ∧
    ((waiting ex1).ctl ≠ .receive ∧ (waiting ex1).rxEnable = true) ∧
    ((State.launch ex1 vector).ctl ≠ .receive ∧ (State.launch ex1 vector).rxEnable = false) ∧
    ((receiving ex1).ctl = .receive ∧ (receiving ex1).powered = true ∧ (receiving ex1).pos = .body ∧
      (receiving ex1).unread = 0 ∧ (receiving ex1).rxq = [] ∧ (receiving ex1).rxEnable = true) ∧
    ((answered .invalid).todo = [.after .invalid] ∧ (answered .invalid).inStep = false ∧
      (answered .invalid).unread = 0 ∧ (answered .invalid).rxq = [] ∧ (answered .invalid).rxEnable = true) ∧
    ((framed ex1 [0x58#8]).pos ≠ .body ∧ (framed ex1 [0x58#8]).todo = [] ∧ (framed ex1 [0x58#8]).inStep = false ∧
      (framed ex1 [0x58#8]).held = false) ∧
    0 < ((receiving ex1).setOut [.byte 0x06#8] 1).unread := by decide +kernel

theorem witness_StepRunsDecodedInstruction :
    (offered ex1 [0x58#8]).powered = true ∧ (offered ex1 [0x58#8]).env = [] ∧
    ((offered ex1 [0x58#8]).setEnv [.run, .read]).env = .run :: [.read] ∧
    ((offered ex1 [0x58#8]).ctl = .receive ∧ (offered ex1 [0x58#8]).pos = .body ∧
      (offered ex1 [0x58#8]).rxEnable = true ∧ (offered ex1 [0x58#8]).rxq = 0x58#8 :: []) ∧
    ((framed ex1 [0x58#8]).ctl = .receive ∧ (framed ex1 [0x58#8]).pos = .dispatch ∧
      frameInstr (framed ex1 [0x58#8]) = .x [] ∧
      commandStatus (frameInstr (framed ex1 [0x4D#8])) (framed ex1 [0x4D#8]) ≠ .success ∧
      frameInstr (framed ex1 [0x4D#8, 0#8, 1#8, 2#8]) ≠ .x [] ∧
      commandStatus (frameInstr (framed ex1 [0x4D#8, 0#8, 1#8, 2#8])) (framed ex1 [0x4D#8, 0#8, 1#8, 2#8]) = .success) ∧
    ((receiving ex1).setPos (.respond .ack)).pos = .respond .ack ∧
    ((verifying ex1).setPos (.respond .sigValid)).ctl = .verifyAndBoot ∧
    ((waiting ex1).ctl = .handshakeWait ∧ (waiting ex1).pos ≠ .entry) ∧
    ((erasing ex1 .reply).ctl = .erase ∧ (erasing ex1 .reply).pos = .reply) := by decide +kernel

/-- Between two primitives of a command, where the next may run and power may fail. -/
theorem witness_StepKeepsInvariant :
    let s := commanding tiny [.write 189 [1#8, 2#8, 3#8], .ret .success]
    s.Inv ∧ (gives (step s) (fun t => t.latchMap = [(61, 1#8)]) &&
      gives (step (s.setEnv [.powerFail])) fun t => !t.powered) = true := by decide +kernel

/-- The end of the erase of the last block below the bootloader, with the first byte of the bootloader's code. -/
theorem witness_BootloaderCodeNeverWritten :
    let s := (during tiny [.erase 2]).setBusy (.erase 2)
    (s.Inv ∧ tiny.addrSumMode = .exact ∧ tiny.btldOffset ≤ 192) ∧ gives (step s) (fun t => t.nvmBusy = .idle) = true := by
  decide +kernel

theorem witness_ArrayChangesOnlyInEraseOrCommand :
    let s := ((commanding tiny [.commit, .ret .success]).setLatch (some 2) [(61, 1#8)]).setBusy .program
    s.Inv ∧ gives (step s) (fun t => t.mem ≠ vector) = true := by decide +kernel

theorem witness_ParametersFixed : ∃ t, step (powerFail (receiving tiny)) = .next t ∧ t.powered = true :=
  next_of (by decide +kernel)

theorem witness_OutputsInOrder :
    ∃ t, step ((during ex1 [.tx 0x40#8]).setFlight (some 0x40#8)) = .next t ∧ decide (t.out.length = 1) = true :=
  next_of (by decide +kernel)

end Sys2Proof.Tests
end

section
/-! The framer's byte rows ESC and START (41_framer.md): which row a byte is in mode NORMAL, and what a START at
index 0 stores. -/

namespace Sys2Proof.Machine

/-- R157 without its first arm: in mode NORMAL a byte is classified by the markers alone. -/
theorem wireInstr_normal {s : State} (b : Byte) (hm : s.frMode = .normal) :
    wireInstr s b =
      if b = escByte then .byteEsc
      else if b = startByte ∧ 0 < s.frIdx then .byteStartResync
      else if b = endByte ∧ s.buf.getD 0 0#8 = startByte then .byteEnd
      else .byteContent b := by
  rw [wireInstr, classify, hm, if_neg (by decide)]

theorem wireInstr_escByte {s : State} (hm : s.frMode = .normal) : wireInstr s escByte = .byteEsc := by
  rw [wireInstr_normal _ hm, if_pos rfl]

theorem wireInstr_startByte_inside {s : State} (hm : s.frMode = .normal) (hi : 0 < s.frIdx) :
    wireInstr s startByte = .byteStartResync := by
  rw [wireInstr_normal _ hm, if_neg (by decide), if_pos ⟨rfl, hi⟩]

theorem wireInstr_startByte_first {s : State} (hm : s.frMode = .normal) (hi : s.frIdx = 0) :
    wireInstr s startByte = .byteContent startByte := by
  have hstart : startByte ≠ escByte ∧ startByte ≠ endByte := by decide
  rw [wireInstr_normal _ hm, if_neg hstart.1, if_neg fun h => h.2.ne' hi, if_neg fun h => hstart.2 h.1]

/-- R152: in a buffer of at least two bytes a byte stored at index 0 wraps the index under neither order of R152. -/
theorem storeByte_first (b : Byte) {s : State} (hi : s.frIdx = 0) (hbuf : 2 ≤ s.cfg.frameBufSize) :
    storeByte b s = s.setFramer s.frMode 1 (s.buf.set 0 b) := by
  unfold storeByte
  cases s.cfg.framerWrap with
  | afterStore =>
    have hfull : 0 + 1 ≠ s.cfg.frameBufSize := by omega
    simp only [hi, if_neg hfull]
  | beforeStore =>
    have hfull : 0 ≠ s.cfg.frameBufSize := by omega
    simp only [hi, if_neg hfull]

/-- R153's corner case: a START stored at index 0 has the effect of a resynchronisation. -/
theorem storeByte_startByte_first {s : State} (hi : s.frIdx = 0) (hbuf : 2 ≤ s.cfg.frameBufSize) :
    storeByte startByte s = resync s := storeByte_first startByte hi hbuf

theorem exec_byteEsc (s : State) : exec .byteEsc s = .next { s with frMode := .escaped } := rfl

theorem exec_byteStartResync (s : State) : exec .byteStartResync s = .next (resync s) := rfl

theorem exec_byteContent (b : Byte) (s : State) : exec (.byteContent b) s = .next (storeByte b s) := rfl

theorem resync_eq (s : State) : resync s = { s with frIdx := 1, buf := s.buf.set 0 startByte } := rfl

/-- Settles O5: in mode NORMAL only the arm of ESC is open to the byte, and that arm writes the mode alone. -/
theorem escapeByteIsConsumed : Obligations.EscapeByteIsConsumed :=
  fun s => ⟨wireInstr_escByte, exec_byteEsc s⟩

/-- Settles O6: inside a frame START is the resynchronising row; at index 0 it is content, and storing it there is a
resynchronisation under both orders of R152. -/
theorem startResynchronises : Obligations.StartResynchronises := by
  intro s
  refine ⟨wireInstr_startByte_inside, ?_, fun hm hi hbuf => ⟨wireInstr_startByte_first hm hi, ?_⟩⟩
  · rw [exec_byteStartResync, resync_eq]
  · rw [exec_byteContent, storeByte_startByte_first hi hbuf, resync_eq]

end Sys2Proof.Machine
end

section
/-! The commands X and UNKNOWN (42_session.md): what a command that fails its check leaves, the two outcomes of X, and
which opcode bytes are the row UNKNOWN. -/

namespace Sys2Proof.Machine

/-- R180, R261: a command that returns another status than Success raises it. -/
theorem returnStatus_of_ne_success {st : Status} (s : State) (h : st ≠ .success) :
    returnStatus st s = { s with st := st, pos := .respond st.response } := by
  rw [returnStatus, if_neg h]
  rfl

theorem resetDevice_eq (s : State) :
    resetDevice s = { s with ctl := .doneReset, pos := .body, out := s.out ++ [.resetRequest] } := rfl

theorem statusX_of_ne_nil {p : List Byte} (h : p ≠ []) : statusX p = .invalidPayload :=
  if_neg fun hlen => h (List.length_eq_zero_iff.mp hlen)

theorem exec_x_of_success {p : List Byte} (s : State) (h : statusX p = .success) :
    exec (.x p) s = .next (resetDevice s) := by
  rw [exec, execX, if_pos h]

theorem exec_x_of_ne_success {p : List Byte} (s : State) (h : statusX p ≠ .success) :
    exec (.x p) s = .next (returnStatus (statusX p) s) := by
  rw [exec, execX, if_neg h]

theorem exec_unknown (op : Byte) (p : List Byte) (s : State) :
    exec (.unknown op p) s = .next (returnStatus .invalidPayload s) := rfl

/-- R94: an opcode that names none of the four commands falls through every arm of the decoder. -/
theorem decodeCommand_of_other {op : Byte} (p : List Byte) (hm : op ≠ opM) (hn : op ≠ opN) (hd : op ≠ opD)
    (hx : op ≠ opX) : decodeCommand op p = .unknown op p := by
  rw [decodeCommand, if_neg hm, if_neg hn, if_neg hd, if_neg hx]

/-- Settles O27: the check of X passes the empty payload alone, which resets the device; any other payload fails it, and
the status it gives is raised. -/
theorem stopCommand : Obligations.StopCommand := by
  refine ⟨fun s => ?_, fun p s hp => ?_⟩
  · rw [exec_x_of_success s rfl, resetDevice_eq]
  · have hst : statusX p = .invalidPayload := statusX_of_ne_nil hp
    rw [exec_x_of_ne_success s (by rw [hst]; decide), hst, returnStatus_of_ne_success s (by decide)]
    rfl

/-- Settles O28: any other opcode falls through the decoder to UNKNOWN, whose arm raises InvalidPayload without a look at
the payload. -/
theorem unknownOpcode : Obligations.UnknownOpcode := by
  refine fun op p s => ⟨decodeCommand_of_other p, ?_⟩
  rw [exec_unknown, returnStatus_of_ne_success s (by decide)]
  rfl

end Sys2Proof.Machine
end

section
/-! The digest pipeline (43_digest.md): the canonical first chunk, one range of positions at a time (R213), and the chunk
the pipeline stores (R211). -/

namespace Sys2Proof.Machine

/-- R213: positions `[0, 4)` take bytes `[4, 8)`. -/
theorem canon_getD_low {c : List Byte} (hc : c.length = 64) {i : Nat} (hi : i < 4) :
    (canon c).getD i 0#8 = c.getD (i + 4) 0#8 := by
  have hlen : i < ((c.drop 4).take 4).length := by simp [hc, hi]
  rw [canon, List.append_assoc, List.getD_append _ _ _ _ hlen]
  simp [List.getD_eq_getElem?_getD, hi, Nat.add_comm]

/-- R213: positions `[4, 8)` are blank. -/
theorem canon_getD_blank {c : List Byte} (hc : c.length = 64) {i : Nat} (h4 : 4 ≤ i) (h8 : i < 8) :
    (canon c).getD i 0#8 = blankByte := by
  have hmoved : ((c.drop 4).take 4).length = 4 := by simp [hc]
  have hfilled : ((c.drop 4).take 4 ++ List.replicate 4 blankByte).length = 8 := by simp [hc]
  rw [canon, List.getD_append _ _ _ _ (by omega), List.getD_append_right _ _ _ _ (by omega), hmoved,
    List.getD_replicate _ (by omega)]

/-- R213: the rest stays where it is. -/
theorem canon_getD_rest {c : List Byte} (hc : c.length = 64) {i : Nat} (h8 : 8 ≤ i) :
    (canon c).getD i 0#8 = c.getD i 0#8 := by
  have hfilled : ((c.drop 4).take 4 ++ List.replicate 4 blankByte).length = 8 := by simp [hc]
  rw [canon, List.getD_append_right _ _ _ _ (by omega), hfilled, List.getD_eq_getElem?_getD, List.getElem?_drop,
    Nat.add_sub_cancel' h8, List.getD_eq_getElem?_getD]

/-- R211: the chunk kept for `H.update`. -/
theorem storeChunk_chunk (bytes : List Byte) (rest : List Task) (s : State) :
    (storeChunk bytes rest s).chunk = if s.dgAddr = 0 then canon bytes else bytes := by
  rw [storeChunk, State.setTodo_chunk, State.setHash_chunk]

/-- Settles O34: the canonical chunk is four moved bytes, four blanks and the untouched rest, so each position falls in
one of three ranges; the pipeline's branch is on the chunk's address. -/
theorem canonicalization : Obligations.Canonicalization := by
  refine ⟨fun c hc => ⟨canon_length hc, fun i _ => ?_⟩, storeChunk_chunk⟩
  split_ifs with h4 h8
  · exact canon_getD_low hc h4
  · exact canon_getD_blank hc (by omega) h8
  · exact canon_getD_rest hc (by omega)

end Sys2Proof.Machine
end

section
/-! The sequencer's entry to HANDSHAKE_WAIT (44_sequencer.md, R232): what it writes, when it is fetched, and where a
reset leaves the sequencer. -/

namespace Sys2Proof.Machine

theorem enterHandshakeWait_eq (s : State) :
    enterHandshakeWait s =
      { s with rxEnable := true, hsMatched := 0, hsBudget := s.cfg.handshakeBudget, pos := .body } := rfl

/-- R231, R232: at the entry of HANDSHAKE_WAIT the sequencer runs its entry actions, and no instruction. -/
theorem fetchTurn_handshakeEntry {s : State} (hc : s.ctl = .handshakeWait) (hp : s.pos = .entry) :
    fetchTurn s = .own (.next (enterHandshakeWait s)) := by
  simp only [fetchTurn, hc, if_pos hp]

/-- R232: the entry is one step of a block that runs alone. -/
theorem step_handshakeEntry {s : State} (ha : s.Alone) (ht : s.todo = []) (hc : s.ctl = .handshakeWait)
    (hp : s.pos = .entry) : step s = .next (enterHandshakeWait s) := by
  have hrun : s.ctl ≠ .doneJump := by simp [hc]
  rw [step_fetch ha hrun ht, fetchTurn_handshakeEntry hc hp, Turn.outcome]

/-- Settles O39: with no operation left over, what the block fetches at the entry is the entry step; a reset that finds
the vector intact is `volatileReset`, which puts the block there. -/
theorem handshakeEntry : Obligations.HandshakeEntry := by
  refine ⟨fun s ha ht hc hp => ?_, fun s t h => ?_⟩
  · rw [step_handshakeEntry ha ht hc hp, enterHandshakeWait_eq]
  · obtain ⟨-, rfl⟩ := resetBlock_next h
    exact ⟨volatileReset_ctl s, volatileReset_pos s, volatileReset_todo s, volatileReset_powered s⟩

end Sys2Proof.Machine
end

section
/-! The encodings (30_encoding.md): a frame read back through its escapes (R92), the command of an opcode (R94), the
response of a byte (R99), and the decoder on every encoded instruction. -/

namespace Sys2Proof

theorem not_isMarker_iff {b : Byte} : isMarker b = false ↔ b ≠ startByte ∧ b ≠ endByte ∧ b ≠ escByte := by
  simp [isMarker, and_assoc]

/-- R92: a marker is sent behind an escape. -/
theorem escape_marker {b : Byte} (bs : List Byte) (h : isMarker b = true) : escape (b :: bs) = escByte :: b :: escape bs :=
  if_pos h

theorem escape_plain {b : Byte} (bs : List Byte) (h : isMarker b = false) : escape (b :: bs) = b :: escape bs :=
  if_neg (by simp [h])

/-- R150: behind an escape any byte is content. -/
theorem unframe_escaped (acc : List Byte) (b : Byte) (bs : List Byte) :
    unframe false acc (escByte :: b :: bs) = unframe false (acc ++ [b]) bs := by
  simp [unframe]

theorem unframe_plain (acc : List Byte) {b : Byte} (bs : List Byte) (h : isMarker b = false) :
    unframe false acc (b :: bs) = unframe false (acc ++ [b]) bs := by
  obtain ⟨hstart, hend, hesc⟩ := not_isMarker_iff.1 h
  simp [unframe, hstart, hend, hesc]

theorem unframe_end {acc : List Byte} (bs : List Byte) (h : acc ≠ []) :
    unframe false acc (endByte :: bs) = some (acc, bs) := by
  simp [unframe, h, show endByte ≠ escByte ∧ endByte ≠ startByte by decide]

/-- R92, R150: reading escaped content gives the content, whatever markers it holds. -/
theorem unframe_escape (content after : List Byte) : ∀ acc : List Byte,
    unframe false acc (escape content ++ after) = unframe false (acc ++ content) after := by
  induction content with
  | nil => intro acc; simp [escape]
  | cons b content ih =>
    intro acc
    rw [List.append_cons acc b content, ← ih]
    cases hb : isMarker b with
    | true => rw [escape_marker _ hb]; exact unframe_escaped _ _ _
    | false => rw [escape_plain _ hb]; exact unframe_plain _ _ hb

/-- R92, R93: a wire frame reads back as the command of its opcode and payload. -/
theorem decodeFrame_wireFrame (op : Byte) (p after : List Byte) :
    decodeFrame (wireFrame op p ++ after) = .ok (decodeCommand op p) after := by
  have hcontent : unframe false [] (escape (op :: p) ++ [endByte] ++ after) = some (op :: p, after) := by
    rw [List.append_assoc, unframe_escape]
    exact unframe_end _ (List.cons_ne_nil _ _)
  rw [wireFrame, List.cons_append, decodeFrame, if_pos rfl, hcontent]

/-- R94: an opcode that is none of the four commands'. -/
theorem decodeCommand_unknown {op : Byte} (p : List Byte) (h : isCommandOp op = false) :
    decodeCommand op p = .unknown op p := by
  simp only [isCommandOp, Bool.or_eq_false_iff, decide_eq_false_iff_not] at h
  obtain ⟨⟨⟨hm, hn⟩, hd⟩, hx⟩ := h
  exact Machine.decodeCommand_of_other p hm hn hd hx

/-- R99: a response byte reads back when the five differ (D21). -/
theorem decodeResponse_responseByte {c : Params} (h : c.responsesDistinct = true) (r : Response) :
    decodeResponse c (c.responseByte r) = some r := by
  simp only [Params.responsesDistinct, decide_eq_true_eq, List.nodup_cons, List.mem_cons, not_or] at h
  cases r <;> simp [decodeResponse, Params.responseByte, h]

/-- Settles O2: a frame by reading its content back through the escapes, a wire byte by its row in the row's own context,
a string by its own bytes, a response by the distinctness of the five. -/
theorem encodedInstructionsDecode : Obligations.EncodedInstructionsDecode := by
  intro c i after hwf hdistinct
  cases i with
  | m p => exact decodeFrame_wireFrame opM p after
  | n p => exact decodeFrame_wireFrame opN p after
  | d p => exact decodeFrame_wireFrame opD p after
  | x p => exact decodeFrame_wireFrame opX p after
  | unknown op p =>
    simp only [Instr.wellFormed, Bool.and_eq_true, Bool.not_eq_true'] at hwf
    exact (decodeFrame_wireFrame op p after).trans (by rw [decodeCommand_unknown p hwf.2])
  | byteEscaped b => rfl
  | byteEsc => rfl
  | byteStartResync => rfl
  | byteEnd => rfl
  | byteContent b =>
    have hb : b ≠ escByte := of_decide_eq_true hwf
    simp [encode, Instr.context, decode, classify, hb, startByte]
  | hsReq => rfl
  | hsRsp => rfl
  | rsp r =>
    rw [Instr.context, encode, List.singleton_append, decode]
    simp only [decodeResponse_responseByte hdistinct r]

/-- Settles O1: each word is evaluated; the parameters play no part in reading a frame. -/
theorem sampleEncodingsDecode : Obligations.SampleEncodingsDecode := by
  refine ⟨?_, ?_, ?_, ?_, ?_, ?_, fun c => ?_⟩ <;> rfl

end Sys2Proof
end

section
/-! The framer (41_framer.md): each byte row runs `OnByte`, a byte stored below the wrap, and a whole wire frame received
byte by byte (R150 to R159). -/

namespace Sys2Proof.Machine

variable {s t : State}

/-! ### The byte rows -/

theorem exec_byteEscaped (b : Byte) (s : State) : exec (.byteEscaped b) s = .next (escapedByte b s) := rfl

theorem exec_byteEnd (s : State) : exec .byteEnd s = .next (frameEnd s) := rfl

/-- R157: the row of a byte and `OnByte` test the same conditions in the same order. -/
theorem exec_wireInstr (b : Byte) (s : State) : exec (wireInstr s b) s = .next (onByte b s) := by
  unfold wireInstr classify onByte
  split_ifs <;> rfl

/-- Settles O3. -/
theorem wireRowsAreOnByte : Obligations.WireRowsAreOnByte := exec_wireInstr

theorem storeByte_afterStore (b : Byte) (hw : s.cfg.framerWrap = .afterStore) :
    storeByte b s = s.setFramer s.frMode (if s.frIdx + 1 = s.cfg.frameBufSize then 0 else s.frIdx + 1)
      (s.buf.set s.frIdx b) := by
  simp only [storeByte, hw]

theorem storeByte_beforeStore (b : Byte) (hw : s.cfg.framerWrap = .beforeStore) :
    storeByte b s = s.setFramer s.frMode ((if s.frIdx = s.cfg.frameBufSize then 0 else s.frIdx) + 1)
      (s.buf.set (if s.frIdx = s.cfg.frameBufSize then 0 else s.frIdx) b) := by
  simp only [storeByte, hw]

/-- Settles O4: in mode ESCAPED the first arm of R157 is taken; storing wraps as FRAMER_WRAP says. -/
theorem escapedByteIsStored : Obligations.EscapedByteIsStored := by
  refine fun b s => ⟨fun hm => by rw [wireInstr, classify, if_pos hm], fun hw => ?_, fun hw => ?_⟩
  · rw [exec_byteEscaped, escapedByte, storeByte_afterStore b hw]; rfl
  · rw [exec_byteEscaped, escapedByte, storeByte_beforeStore b hw]; rfl

theorem frameEnd_of_opcode (h : 2 ≤ s.frIdx) : frameEnd s = s.setPos .dispatch := if_pos h

/-- Settles O7: END with START at the front is the row END, which goes by the index alone. -/
theorem endDispatchesFrame : Obligations.EndDispatchesFrame := by
  refine fun s => ⟨fun hm hb => ?_, fun hi => ?_, fun hi => ?_⟩
  · rw [wireInstr_normal _ hm, if_neg (by decide), if_neg (fun h => absurd h.1 (by decide)), if_pos ⟨rfl, hb⟩]
  · rw [exec_byteEnd, frameEnd_of_opcode hi]; rfl
  · rw [exec_byteEnd, frameEnd, if_neg (Nat.not_le.2 hi)]

/-- R156: what is no marker in its place is content. -/
theorem wireInstr_content {b : Byte} (hm : s.frMode = .normal) (hesc : b ≠ escByte)
    (hstart : ¬ (b = startByte ∧ 0 < s.frIdx)) (hend : ¬ (b = endByte ∧ s.buf.getD 0 0#8 = startByte)) :
    wireInstr s b = .byteContent b := by
  rw [wireInstr_normal _ hm, if_neg hesc, if_neg hstart, if_neg hend]

/-- Settles O8: the three kinds of byte that no earlier arm of R157 takes; storing wraps as FRAMER_WRAP says. -/
theorem contentByteIsStored : Obligations.ContentByteIsStored := by
  refine fun b s => ⟨fun hm hb => ?_, fun hw => ?_, fun hw => ?_⟩
  · rcases hb with ⟨hesc, hstart, hend⟩ | ⟨rfl, hi⟩ | ⟨rfl, h0⟩
    · exact wireInstr_content hm hesc (fun h => hstart h.1) fun h => hend h.1
    · exact wireInstr_startByte_first hm hi
    · exact wireInstr_content hm (by decide) (fun h => absurd h.1 (by decide)) fun h => h0 h.2
  · rw [exec_byteContent, storeByte_afterStore b hw]; rfl
  · rw [exec_byteContent, storeByte_beforeStore b hw]; rfl

/-! ### Running several steps -/

theorem runSteps_succ {n : Nat} (h : step s = .next t) : runSteps (n + 1) s = runSteps n t := by
  rw [runSteps, h]

theorem runSteps_one (h : step s = .next t) : runSteps 1 s = .next t := runSteps_succ h

theorem runSteps_add (m n : Nat) : ∀ {s : State}, runSteps m s = .next t → runSteps (m + n) s = runSteps n t := by
  induction m with
  | zero => intro s h; cases h; rw [Nat.zero_add]
  | succ m ih =>
    intro s h
    rw [runSteps] at h
    cases hs : step s with
    | next u =>
      rw [hs] at h
      rw [Nat.add_right_comm, runSteps_succ hs]
      exact ih h
    | fault f => rw [hs] at h; cases h
    | refused r => rw [hs] at h; cases h

/-! ### Receiving a frame -/

/-- R237: the block runs alone and polls in RECEIVE, in mode NORMAL, with some bytes waiting. -/
structure State.Polls (s : State) (q : List Byte) : Prop where
  alone : s.Alone
  todo : s.todo = []
  ctl : s.ctl = .receive
  pos : s.pos = .body
  rxEnable : s.rxEnable = true
  rxq : s.rxq = q
  length : s.buf.length = s.cfg.frameBufSize

/-- R237: one poll takes the oldest byte and runs `OnByte` on it. -/
theorem State.Polls.step_eq {b : Byte} {q : List Byte} (h : s.Polls (b :: q)) :
    step s = .next (onByte b (s.setRx true q)) := by
  have hpoll : rxPoll s = (some b, s.setRx true q) := by simp only [rxPoll, h.rxEnable, if_true, h.rxq]
  rw [step_fetch h.alone (by simp [h.ctl]) h.todo]
  simp only [fetchTurn, h.ctl, h.pos, receiveTurn, hpoll, Turn.outcome, exec_wireInstr]

/-- The state `t` polls on with some bytes waiting and the framer's elements as given, and is otherwise as `s`. -/
def State.framing (s : State) (mode : FramerMode) (acc : List Byte) (q : List Byte) (t : State) : Prop :=
  ∃ buf, buf.length = s.buf.length ∧ buf.take acc.length = acc ∧ t = (s.setFramer mode acc.length buf).setRx true q

theorem State.Polls.of_framing {q q' : List Byte} {mode : FramerMode} {acc : List Byte} (h : s.Polls q)
    (ht : s.framing mode acc q' t) : t.Polls q' := by
  obtain ⟨buf, hlen, -, rfl⟩ := ht
  exact ⟨h.alone, h.todo, h.ctl, h.pos, rfl, rfl, hlen.trans h.length⟩

theorem State.framing.frMode {mode : FramerMode} {acc q : List Byte} (h : s.framing mode acc q t) : t.frMode = mode := by
  obtain ⟨buf, -, -, rfl⟩ := h
  rfl

/-- Storing one byte lengthens the part of the buffer that is filled. -/
theorem take_set_length {buf acc : List Byte} (b : Byte) (htake : buf.take acc.length = acc)
    (hlt : acc.length < buf.length) : (buf.set acc.length b).take (acc ++ [b]).length = acc ++ [b] := by
  rw [List.length_append, List.length_singleton, List.take_succ_eq_append_getElem (by simpa using hlt),
    List.getElem_set_self, List.take_set_of_le (Nat.le_refl _), htake]

/-- R152: a frame that is still to be dispatched is stored without a wrap. -/
theorem storeByte_noWrap (b : Byte) (h : s.frIdx + 1 ≤ s.cfg.maxFrame) (h2 : 2 ≤ s.cfg.frameBufSize) :
    storeByte b s = s.setFramer s.frMode (s.frIdx + 1) (s.buf.set s.frIdx b) := by
  unfold Params.maxFrame at h
  cases hw : s.cfg.framerWrap with
  | afterStore =>
    rw [hw] at h
    rw [storeByte_afterStore b hw, if_neg (show ¬ s.frIdx + 1 = s.cfg.frameBufSize by simp only at h; omega)]
  | beforeStore =>
    rw [hw] at h
    rw [storeByte_beforeStore b hw, if_neg (show ¬ s.frIdx = s.cfg.frameBufSize by simp only at h; omega)]

section
variable {mode : FramerMode} {acc q q₀ : List Byte} {b : Byte}

theorem State.framing.setRx (h : s.framing mode acc q t) (q' : List Byte) : s.framing mode acc q' (t.setRx true q') := by
  obtain ⟨buf, hlen, htake, rfl⟩ := h
  exact ⟨buf, hlen, htake, rfl⟩

theorem State.framing.setMode (h : s.framing mode acc q t) (mode' : FramerMode) :
    s.framing mode' acc q (t.setFramer mode' t.frIdx t.buf) := by
  obtain ⟨buf, hlen, htake, rfl⟩ := h
  exact ⟨buf, hlen, htake, rfl⟩

theorem State.framing.store (h : s.framing mode acc q t) (hs : s.Polls q₀) (b : Byte)
    (hfit : acc.length + 1 ≤ s.cfg.maxFrame) (h2 : 2 ≤ s.cfg.frameBufSize) :
    s.framing mode (acc ++ [b]) q (storeByte b t) := by
  obtain ⟨buf, hlen, htake, rfl⟩ := h
  have hmax : s.cfg.maxFrame ≤ s.cfg.frameBufSize := by unfold Params.maxFrame; split <;> omega
  have hlt : acc.length < buf.length := by rw [hlen, hs.length]; omega
  refine ⟨buf.set acc.length b, by simp [hlen], take_set_length b htake hlt, ?_⟩
  refine (storeByte_noWrap (s := (s.setFramer mode acc.length buf).setRx true q) b hfit h2).trans ?_
  rw [List.length_append]
  rfl

/-- One poll of the receive loop, seen from the state the frame began in. -/
theorem State.framing.step_eq (h : s.framing mode acc (b :: q) t) (hs : s.Polls q₀) :
    ∃ u, s.framing mode acc q u ∧ step t = .next (onByte b u) :=
  ⟨t.setRx true q, h.setRx q, (hs.of_framing h).step_eq⟩

theorem onByte_normal (hm : s.frMode = .normal) (h : isMarker b = false) : onByte b s = storeByte b s := by
  obtain ⟨hstart, hend, hesc⟩ := not_isMarker_iff.1 h
  rw [onByte, if_neg (by simp [hm]), if_neg hesc, if_neg (fun h => hstart h.1), if_neg fun h => hend h.1]

theorem onByte_escByte (hm : s.frMode = .normal) : onByte escByte s = escapePrefix s := by
  rw [onByte, if_neg (by simp [hm]), if_pos rfl]

theorem onByte_escaped (b : Byte) (hm : s.frMode = .escaped) : onByte b s = escapedByte b s := if_pos hm

/-- R92, R150: one byte of content, in its minimal encoding. -/
theorem State.framing.content_byte (h : s.framing .normal acc (escape [b] ++ q) t) (hs : s.Polls q₀)
    (hfit : acc.length + 1 ≤ s.cfg.maxFrame) (h2 : 2 ≤ s.cfg.frameBufSize) :
    ∃ u, s.framing .normal (acc ++ [b]) q u ∧ runSteps (escape [b]).length t = .next u := by
  cases hb : isMarker b with
  | false =>
    rw [escape_plain _ hb] at h ⊢
    obtain ⟨u, hu, hstep⟩ := h.step_eq hs
    rw [onByte_normal hu.frMode hb] at hstep
    exact ⟨_, hu.store hs b hfit h2, runSteps_one hstep⟩
  | true =>
    rw [escape_marker _ hb] at h ⊢
    obtain ⟨u, hu, hstep⟩ := h.step_eq hs
    rw [onByte_escByte hu.frMode] at hstep
    obtain ⟨v, hv, hstep'⟩ := (hu.setMode .escaped).step_eq hs
    rw [onByte_escaped b hv.frMode] at hstep'
    exact ⟨_, (hv.store hs b hfit h2).setMode .normal, (runSteps_succ hstep).trans (runSteps_one hstep')⟩

theorem escape_cons (b : Byte) (bs : List Byte) : escape (b :: bs) = escape [b] ++ escape bs := by
  cases hb : isMarker b <;> simp [escape, hb]

/-- R92, R159: escaped content goes to the buffer unescaped. -/
theorem State.framing.content (hs : s.Polls q₀) (h2 : 2 ≤ s.cfg.frameBufSize) (content : List Byte) : ∀ {t acc},
    s.framing .normal acc (escape content ++ q) t → acc.length + content.length ≤ s.cfg.maxFrame →
    ∃ u, s.framing .normal (acc ++ content) q u ∧ runSteps (escape content).length t = .next u := by
  induction content with
  | nil => exact fun {t acc} h _ => ⟨t, by simpa [escape] using h, rfl⟩
  | cons b content ih =>
    intro t acc h hfit
    rw [List.length_cons] at hfit
    rw [escape_cons, List.append_assoc] at h
    obtain ⟨u, hu, hrun⟩ := h.content_byte hs (by omega) h2
    obtain ⟨v, hv, hrun'⟩ := ih hu (by rw [List.length_append, List.length_singleton]; omega)
    refine ⟨v, by rwa [List.append_cons], ?_⟩
    rw [escape_cons, List.length_append, runSteps_add _ _ hrun, hrun']

/-- R153, R156: from mode NORMAL a START begins a frame, whatever the index and the buffer held. -/
theorem onByte_startByte (hm : s.frMode = .normal) (h2 : 2 ≤ s.cfg.frameBufSize) : onByte startByte s = resync s := by
  rw [onByte, if_neg (by simp [hm]), if_neg (by decide)]
  by_cases hi : 0 < s.frIdx
  · rw [if_pos ⟨rfl, hi⟩]
  · rw [if_neg fun h => hi h.2, if_neg fun h => absurd h.1 (by decide),
      storeByte_startByte_first (Nat.eq_zero_of_not_pos hi) h2]

theorem State.Polls.start (h : s.Polls (startByte :: q)) (hm : s.frMode = .normal) (h2 : 2 ≤ s.cfg.frameBufSize) :
    ∃ u, s.framing .normal [startByte] q u ∧ step s = .next u := by
  have hbuf : 0 < s.buf.length := by rw [h.length]; omega
  have hstep := h.step_eq
  rw [onByte_startByte (s := s.setRx true q) hm h2] at hstep
  refine ⟨_, ⟨s.buf.set 0 startByte, by simp, ?_, ?_⟩, hstep⟩
  · exact take_set_length (acc := []) startByte rfl hbuf
  · rw [resync, State.setRx_frMode, hm]
    rfl

theorem onByte_endByte (hm : s.frMode = .normal) (hb : s.buf.getD 0 0#8 = startByte) : onByte endByte s = frameEnd s := by
  rw [onByte, if_neg (by simp [hm]), if_neg (by decide), if_neg fun h => absurd h.1 (by decide), if_pos ⟨rfl, hb⟩]

/-- R154: the END of a frame with an opcode hands it on. -/
theorem State.framing.endOfFrame {op : Byte} {p : List Byte} (h : s.framing .normal (startByte :: op :: p) (endByte :: q) t)
    (hs : s.Polls q₀) :
    ∃ u, s.framing .normal (startByte :: op :: p) q u ∧ step t = .next (u.setPos .dispatch) := by
  obtain ⟨u, hu, hstep⟩ := h.step_eq hs
  have hmode := hu.frMode
  obtain ⟨buf, hlen, htake, rfl⟩ := id hu
  have hfirst : buf.getD 0 0#8 = startByte := by
    cases buf with
    | nil => simp at htake
    | cons b buf => exact (List.cons.inj htake).1
  rw [onByte_endByte hmode hfirst, frameEnd_of_opcode (by simp)] at hstep
  exact ⟨_, hu, hstep⟩

/-- R155: the command of a frame that stands in the buffer. -/
theorem frameInstr_of_take {op : Byte} {p : List Byte} (htake : s.buf.take s.frIdx = startByte :: op :: p) :
    frameInstr s = decodeCommand op p := by
  obtain ⟨more, hbuf⟩ : ∃ more, s.buf = (startByte :: op :: p) ++ more :=
    ⟨_, by rw [← htake, List.take_append_drop]⟩
  rw [frameInstr, htake, hbuf]
  rfl

/-- Settles O9: the START begins the frame, the content goes to the buffer unescaped, the END hands it on; nothing else of
the state has changed. -/
theorem escapedFrameIsReceived : Obligations.EscapedFrameIsReceived := by
  intro s op p q ha ht hc hp hm hrx hq hlen h2 hfit
  have hmax : 2 + p.length ≤ s.cfg.maxFrame := of_decide_eq_true hfit
  have hs : s.Polls (startByte :: (escape (op :: p) ++ (endByte :: q))) :=
    ⟨ha, ht, hc, hp, hrx, by simpa [wireFrame] using hq, hlen⟩
  obtain ⟨t, hstart, hrun₁⟩ := hs.start hm h2
  obtain ⟨u, hcontent, hrun₂⟩ := State.framing.content hs h2 (op :: p) hstart (by simp; omega)
  obtain ⟨v, hend, hrun₃⟩ := State.framing.endOfFrame hcontent hs
  obtain ⟨buf, -, htake, rfl⟩ := hend
  have htake' : buf.take (2 + p.length) = startByte :: op :: p := by rw [Nat.add_comm]; exact htake
  refine ⟨((s.setFramer .normal (startByte :: op :: p).length buf).setRx true q).setPos .dispatch, ?_, rfl,
    Nat.add_comm p.length 2, htake', rfl, rfl, rfl, frameInstr_of_take htake⟩
  have hsteps : (wireFrame op p).length = (escape (op :: p)).length + 1 + 1 := by simp [wireFrame]
  rw [hsteps, runSteps_succ hrun₁, runSteps_add _ _ hrun₂, runSteps_one hrun₃]
end

end Sys2Proof.Machine
end

section
/-! What every step leaves alone: the parameters (R6), what has left the block (R41), and the array outside the completion
of a cycle and a power failure (R30, R74). -/

namespace Sys2Proof.Machine

variable {s t : State}

/-- The parameters are as before and what has left the block has only grown. -/
structure State.Extends (s t : State) : Prop where
  cfg : t.cfg = s.cfg
  out : ∃ l, t.out = s.out ++ l

theorem State.Extends.of_eq (hcfg : t.cfg = s.cfg) (hout : t.out = s.out) : s.Extends t :=
  ⟨hcfg, [], by rw [hout, List.append_nil]⟩

theorem State.Extends.of_setTodo {ts : List Task} (h : (s.setTodo ts).Extends t) : s.Extends t := ⟨h.cfg, h.out⟩

/-! ### One primitive -/

theorem afterResponse_extends (r : Response) (s : State) : s.Extends (afterResponse r s) := by
  cases r
  case ack => exact .of_eq rfl rfl
  case sigValid => exact ⟨rfl, _, rfl⟩
  all_goals exact ⟨rfl, _, rfl⟩

theorem returnStatus_extends (st : Status) (s : State) : s.Extends (returnStatus st s) := by
  unfold returnStatus
  split_ifs <;> exact .of_eq rfl rfl

theorem txStep_extends (b : Byte) (rest : List Task) (s : State) : s.Extends (txStep b rest s) := by
  unfold txStep
  split
  · exact ⟨rfl, _, rfl⟩
  · exact .of_eq rfl rfl

theorem writeStep_extends {a : Nat} {bytes : List Byte} {rest : List Task} (h : writeStep a bytes rest s = .next t) :
    s.Extends t := by
  cases bytes with
  | nil => cases h; exact .of_eq rfl rfl
  | cons v later => obtain ⟨-, -, rfl⟩ := latchLoad_cases h; exact .of_eq rfl rfl

theorem commitStep_extends {rest : List Task} (h : commitStep rest s = .next t) : s.Extends t := by
  unfold commitStep at h
  split_ifs at h <;> cases h <;> exact .of_eq rfl rfl

theorem eraseFromStep_extends {k n : Nat} {rest : List Task} (h : eraseFromStep k n rest s = .next t) : s.Extends t := by
  rcases Nat.eq_zero_or_pos n with rfl | hn
  · cases h; exact .of_eq rfl rfl
  · obtain ⟨-, rfl⟩ := eraseFromStep_cases hn h; exact .of_eq rfl rfl

theorem taskStep_extends {now : Task} {rest : List Task} (h : taskStep now rest s = .next t) : s.Extends t := by
  cases now with
  | read a left got use =>
    cases h
    have hsame := readStep_controller a left got use rest s
    exact .of_eq (congrArg State.cfg hsame :) (congrArg State.out hsame :)
  | write a bytes => exact writeStep_extends h
  | commit => exact commitStep_extends h
  | erase k => obtain ⟨-, rfl⟩ | ⟨-, -, rfl⟩ := eraseStep_cases h <;> exact .of_eq rfl rfl
  | eraseFrom k n => exact eraseFromStep_extends h
  | tx b => cases h; exact txStep_extends b rest s
  | ret st => cases h; exact (returnStatus_extends st (s.setTodo rest)).of_setTodo
  | after r => cases h; exact (afterResponse_extends r (s.setTodo rest)).of_setTodo
  | hashInit | hashUpdate | hashFinal | verify | enterReceive => cases h; exact .of_eq rfl rfl

/-- R30: only the completion of a cycle changes the array. -/
theorem taskStep_mem {now : Task} {rest : List Task} (h : taskStep now rest s = .next t) :
    t.mem = s.mem ∨ now = .commit ∧ s.nvmBusy = .program ∧ t = finishCommit (s.setTodo rest) ∨
      ∃ k, now = .erase k ∧ s.nvmBusy = .erase k ∧ t = finishErase k (s.setTodo rest) := by
  cases now with
  | read a left got use => cases h; exact .inl (congrArg State.mem (readStep_controller a left got use rest s) :)
  | write a bytes =>
    cases bytes with
    | nil => cases h; exact .inl rfl
    | cons v later => obtain ⟨-, -, rfl⟩ := latchLoad_cases h; exact .inl rfl
  | commit =>
    rw [taskStep, commitStep] at h
    split_ifs at h with hb <;> cases h
    · exact .inr (.inl ⟨rfl, hb, rfl⟩)
    · exact .inl rfl
  | erase k =>
    obtain ⟨hb, rfl⟩ | ⟨-, -, rfl⟩ := eraseStep_cases h
    · exact .inr (.inr ⟨k, rfl, hb, rfl⟩)
    · exact .inl rfl
  | eraseFrom k n =>
    rcases Nat.eq_zero_or_pos n with rfl | hn
    · cases h; exact .inl rfl
    · obtain ⟨-, rfl⟩ := eraseFromStep_cases hn h; exact .inl rfl
  | tx b => cases h; rw [txStep]; split <;> exact .inl rfl
  | ret st => cases h; rw [returnStatus]; split_ifs <;> exact .inl rfl
  | after r => cases h; cases r <;> exact .inl rfl
  | hashInit | hashUpdate | hashFinal | verify | enterReceive => cases h; exact .inl rfl

/-! ### Between two sequences -/

/-- As `Extends`, and the array is as before. -/
structure State.Spares (s t : State) : Prop extends s.Extends t where
  mem : t.mem = s.mem

theorem State.Spares.of_eq (hcfg : t.cfg = s.cfg) (hout : t.out = s.out) (hmem : t.mem = s.mem) : s.Spares t :=
  ⟨.of_eq hcfg hout, hmem⟩

/-- R152: storing keeps the buffer's length and the index in range. -/
theorem storeByte_cases (b : Byte) (s : State) :
    ∃ i buf, storeByte b s = s.setFramer s.frMode i buf ∧ buf.length = s.buf.length ∧
      (2 ≤ s.cfg.frameBufSize → frameIndexOk s.cfg s.frIdx = true → frameIndexOk s.cfg i = true) := by
  cases hw : s.cfg.framerWrap with
  | afterStore =>
    refine ⟨_, _, storeByte_afterStore b hw, List.length_set, ?_⟩
    simp only [frameIndexOk, hw, decide_eq_true_eq]
    split_ifs <;> omega
  | beforeStore =>
    refine ⟨_, _, storeByte_beforeStore b hw, List.length_set, ?_⟩
    simp only [frameIndexOk, hw, decide_eq_true_eq]
    split_ifs <;> omega

/-- R157: `OnByte` hands a frame with an opcode on, or changes the framer alone. -/
theorem onByte_cases (b : Byte) (s : State) :
    2 ≤ s.frIdx ∧ onByte b s = s.setPos .dispatch ∨
      ∃ mode i buf, onByte b s = s.setFramer mode i buf ∧ buf.length = s.buf.length ∧
        (2 ≤ s.cfg.frameBufSize → frameIndexOk s.cfg s.frIdx = true → frameIndexOk s.cfg i = true) := by
  obtain ⟨i, buf, hstore, hlen, hidx⟩ := storeByte_cases b s
  have hone : 2 ≤ s.cfg.frameBufSize → frameIndexOk s.cfg 1 = true := fun h => by
    unfold frameIndexOk
    split <;> exact decide_eq_true (by omega)
  unfold onByte escapedByte frameEnd
  rw [hstore]
  split_ifs with h1 h2 h3 h4 h5
  · exact .inr ⟨.normal, i, buf, rfl, hlen, hidx⟩
  · exact .inr ⟨.escaped, s.frIdx, s.buf, rfl, rfl, fun _ => id⟩
  · exact .inr ⟨s.frMode, 1, s.buf.set 0 startByte, rfl, List.length_set, fun h _ => hone h⟩
  · exact .inl ⟨h5, rfl⟩
  · exact .inr ⟨s.frMode, s.frIdx, s.buf, rfl, rfl, fun _ => id⟩
  · exact .inr ⟨s.frMode, i, buf, rfl, hlen, hidx⟩

theorem onByte_spares (b : Byte) (s : State) : s.Spares (onByte b s) := by
  obtain ⟨-, h⟩ | ⟨mode, i, buf, h, -, -⟩ := onByte_cases b s <;> rw [h] <;> exact .of_eq rfl rfl rfl

/-- R233: a poll of the handshake ends the wait on a spent budget, finds no byte, or has one to match. -/
theorem handshakeStep_cases (s : State) :
    s.hsBudget = 0 ∧ handshakeStep s = s.goto .verifyAndBoot .body ∨
      0 < s.hsBudget ∧ (s.rxEnable = false ∨ s.rxq = []) ∧ handshakeStep s = s.setHandshake s.hsMatched (s.hsBudget - 1) ∨
      ∃ b q, 0 < s.hsBudget ∧ s.rxEnable = true ∧ s.rxq = b :: q ∧
        handshakeStep s = matchByte b ((s.setHandshake s.hsMatched (s.hsBudget - 1)).setRx true q) := by
  unfold handshakeStep
  split_ifs with h0
  · exact .inl ⟨h0, rfl⟩
  · obtain ⟨b, q, hrx, hq, hpoll⟩ | ⟨hidle, hpoll⟩ := rxPoll_cases (s.setHandshake s.hsMatched (s.hsBudget - 1))
    · exact .inr (.inr ⟨b, q, Nat.pos_of_ne_zero h0, hrx, hq, by simp only [hpoll]⟩)
    · exact .inr (.inl ⟨Nat.pos_of_ne_zero h0, hidle, by simp only [hpoll]⟩)

/-- R233, R234: a byte moves the match on, and the fifth one ends the wait. -/
theorem matchByte_cases (b : Byte) (s : State) :
    matchNext s.hsMatched b = 5 ∧ matchByte b s = (s.setHandshake 5 s.hsBudget).goto .erase .body ∨
      matchNext s.hsMatched b ≠ 5 ∧ matchByte b s = s.setHandshake (matchNext s.hsMatched b) s.hsBudget := by
  by_cases h : matchNext s.hsMatched b = 5
  · exact .inl ⟨h, by simp only [matchByte, h, if_true]⟩
  · exact .inr ⟨h, if_neg h⟩

theorem matchByte_spares (b : Byte) (s : State) : s.Spares (matchByte b s) := by
  obtain ⟨-, h⟩ | ⟨-, h⟩ := matchByte_cases b s <;> rw [h] <;> exact .of_eq rfl rfl rfl

theorem handshakeStep_spares (s : State) : s.Spares (handshakeStep s) := by
  obtain ⟨-, h⟩ | ⟨-, -, h⟩ | ⟨b, q, -, -, -, h⟩ := handshakeStep_cases s <;> rw [h]
  · exact .of_eq rfl rfl rfl
  · exact .of_eq rfl rfl rfl
  · have hb := matchByte_spares b ((s.setHandshake s.hsMatched (s.hsBudget - 1)).setRx true q)
    exact ⟨⟨hb.cfg, hb.out⟩, hb.mem⟩

/-- R94: the rows that a complete frame can be. -/
def isCommand : Instr → Bool
  | .m _ | .n _ | .d _ | .x _ | .unknown _ _ => true
  | _ => false

theorem isCommand_decodeCommand (op : Byte) (p : List Byte) : isCommand (decodeCommand op p) = true := by
  unfold decodeCommand
  split_ifs <;> rfl

/-- R182, R183, R186, R187: the WRITEs of a command that its checks accept. -/
def commandWrites : Instr → State → List Task
  | .m p, s => writeTasks s.cfg.codeSizeOffset (payloadBytes p s 0 3)
  | .n p, s => writeTasks s.cfg.signatOffset (payloadBytes p s 0 64)
  | .d p, s => if dAddr p s = 0 then writesAtZero p s else writesAtAddr p s
  | _, _ => []

/-- What a command can do first (R180, R188, R261). -/
inductive CommandIs (i : Instr) (s t : State) : Prop where
  | writes (d : Nat) (hst : commandStatus i s = .success) (hne : i ≠ .x [])
      (h : t = (s.setDraws d).setTodo (commandWrites i s ++ [.ret .success]))
  | resets (hi : i = .x []) (h : t = resetDevice s)
  | raises (hst : commandStatus i s ≠ .success) (h : t = raiseStatus (commandStatus i s) s)

theorem CommandIs.of_status {i : Instr} {st : Status} (hi : commandStatus i s = st) (hst : st ≠ .success)
    (h : t = returnStatus st s) : CommandIs i s t :=
  .raises (hi ▸ hst) (by rw [h, hi, returnStatus, if_neg hst])

theorem exec_command_cases {i : Instr} (hi : isCommand i = true) (h : exec i s = .next t) : CommandIs i s t := by
  cases i with
  | m p =>
    obtain rfl := Host.Outcome.next.inj h
    split_ifs with hst
    exacts [.writes s.draws hst nofun rfl, .of_status rfl hst rfl]
  | n p =>
    obtain rfl := Host.Outcome.next.inj h
    split_ifs with hst
    exacts [.writes s.draws hst nofun rfl, .of_status rfl hst rfl]
  | d p =>
    obtain rfl := Host.Outcome.next.inj h
    obtain ⟨d, hd⟩ := afterPayload_eq s (dTop p s)
    rw [hd]
    split_ifs with hst h0
    · exact .writes d hst nofun (by rw [commandWrites, if_pos h0]; rfl)
    · exact .writes d hst nofun (by rw [commandWrites, if_neg h0]; rfl)
    · exact .of_status rfl hst rfl
  | x p =>
    obtain rfl := Host.Outcome.next.inj h
    split_ifs with hst
    · have hp : p = [] := of_not_not fun hne => absurd ((statusX_of_ne_nil hne).symm.trans hst) nofun
      exact .resets (congrArg _ hp) rfl
    · exact .of_status rfl hst rfl
  | unknown op p => exact .of_status rfl nofun (Host.Outcome.next.inj h).symm
  | _ => cases hi

theorem CommandIs.spares {i : Instr} (h : CommandIs i s t) : s.Spares t := by
  cases h with
  | writes d _ _ h => exact h ▸ .of_eq rfl rfl rfl
  | resets _ h => exact h ▸ ⟨⟨rfl, _, rfl⟩, rfl⟩
  | raises _ h => exact h ▸ .of_eq rfl rfl rfl

/-- Everything that can come between two sequences (R231). -/
inductive FetchIs (s t : State) : Prop where
  | entry (hc : s.ctl = .handshakeWait) (hp : s.pos = .entry) (h : t = enterHandshakeWait s)
  | poll (hc : s.ctl = .handshakeWait) (hp : s.pos ≠ .entry) (h : t = handshakeStep s)
  | erase (hc : s.ctl = .erase) (hp : s.pos ≠ .reply) (h : t = startEraseState s)
  | reply (hc : s.ctl = .erase) (hp : s.pos = .reply) (h : t = s.setTodo (hsRspBytes.map .tx ++ [.enterReceive]))
  | command (hc : s.ctl = .receive) (hp : s.pos = .dispatch) (h : CommandIs (frameInstr s) s t)
  | respond (r : Response) (hc : s.ctl = .receive ∨ s.ctl = .verifyAndBoot) (hp : s.pos = .respond r)
      (h : t = (beforeResponse r s).setTodo [.tx (s.cfg.responseByte r), .after r])
  | receive (b : Byte) (q : List Byte) (hc : s.ctl = .receive) (hp : s.pos ≠ .dispatch ∧ ∀ r, s.pos ≠ .respond r)
      (hrx : s.rxEnable = true) (hq : s.rxq = b :: q) (h : t = onByte b (s.setRx true q))
  | silent (hc : s.ctl = .receive) (h : t = s)
  | verify (hc : s.ctl = .verifyAndBoot) (hp : ∀ r, s.pos ≠ .respond r) (h : t = startVerify s)
  | reset (hc : s.ctl = .doneReset) (h : resetBlock s = .next t)

theorem receiveTurn_cases (hc : s.ctl = .receive) (hp : s.pos ≠ .dispatch ∧ ∀ r, s.pos ≠ .respond r)
    (h : (receiveTurn s).outcome = .next t) : FetchIs s t := by
  unfold receiveTurn at h
  obtain ⟨b, q, hrx, hq, hpoll⟩ | ⟨-, hpoll⟩ := rxPoll_cases s
  · simp only [hpoll, Turn.outcome, exec_wireInstr] at h
    exact .receive b q hc hp hrx hq (Host.Outcome.next.inj h).symm
  · simp only [hpoll, Turn.outcome] at h
    exact .silent hc (Host.Outcome.next.inj h).symm

theorem fetch_cases (h : (fetchTurn s).outcome = .next t) : FetchIs s t := by
  unfold fetchTurn at h
  split at h
  case h_1 hc =>
    split_ifs at h with hp
    exacts [.entry hc hp (Host.Outcome.next.inj h).symm, .poll hc hp (Host.Outcome.next.inj h).symm]
  case h_2 hc =>
    split_ifs at h with hp
    exacts [.reply hc hp (Host.Outcome.next.inj h).symm, .erase hc hp (Host.Outcome.next.inj h).symm]
  case h_3 hc =>
    split at h
    next hp => exact .command hc hp (exec_command_cases (isCommand_decodeCommand _ _) h)
    next r hp => exact .respond r (.inl hc) hp (Host.Outcome.next.inj h).symm
    next hd hr => exact receiveTurn_cases hc ⟨hd, hr⟩ h
  case h_4 hc =>
    split at h
    next r hp => exact .respond r (.inr hc) hp (Host.Outcome.next.inj h).symm
    next hr => exact .verify hc hr (Host.Outcome.next.inj h).symm
  case h_5 hc => exact .reset hc h
  case h_6 => cases h

theorem beforeResponse_spares (r : Response) (s : State) : s.Spares (beforeResponse r s) := by
  cases r <;> exact .of_eq rfl rfl rfl

theorem resetBlock_spares (h : resetBlock s = .next t) : s.Spares t := by
  obtain ⟨-, rfl⟩ := resetBlock_next h
  exact .of_eq rfl rfl rfl

/-- What comes between two sequences never changes the array. -/
theorem FetchIs.spares (h : FetchIs s t) : s.Spares t := by
  cases h with
  | poll _ _ h => exact h ▸ handshakeStep_spares s
  | command _ _ h => exact h.spares
  | respond r _ _ h =>
    have hb := beforeResponse_spares r s
    exact h ▸ ⟨⟨hb.cfg, hb.out⟩, hb.mem⟩
  | receive b q _ _ _ _ h =>
    have hb := onByte_spares b (s.setRx true q)
    exact h ▸ ⟨⟨hb.cfg, hb.out⟩, hb.mem⟩
  | reset _ h => exact resetBlock_spares h
  | entry _ _ h | erase _ _ h | reply _ _ h | verify _ _ h => exact h ▸ .of_eq rfl rfl rfl
  | silent _ h => exact h ▸ .of_eq rfl rfl rfl

/-! ### A whole step -/

theorem environmentMove_extends (m : Move) (s : State) : s.Extends (environmentMove m s) := by
  cases m with
  | offer b => obtain ⟨-, h⟩ | h := hostOffer_cases b s <;> rw [environmentMove, h] <;> exact .of_eq rfl rfl
  | powerFail => exact ⟨rfl, _, rfl⟩
  | run | read => exact .of_eq rfl rfl

theorem step_extends (h : step s = .next t) : s.Extends t := by
  obtain ⟨-, hstep⟩ := step_cases h
  cases hstep with
  | environment m e _ _ ht =>
    have hx := environmentMove_extends m (s.setEnv e)
    exact ht ▸ ⟨hx.cfg, hx.out⟩
  | reset e _ _ hreset => exact ⟨(resetBlock_spares hreset).cfg, (resetBlock_spares hreset).out⟩
  | task e _ _ now rest _ htask => exact ⟨(taskStep_extends htask).cfg, (taskStep_extends htask).out⟩
  | fetch e _ _ _ hfetch => exact ⟨(fetch_cases hfetch).spares.cfg, (fetch_cases hfetch).spares.out⟩

/-- Settles O59: no update of any step touches the parameters. -/
theorem parametersFixed : Obligations.ParametersFixed := fun _ _ h => (step_extends h).cfg

/-- Settles O60: every step that sends anything puts it last. -/
theorem outputsInOrder : Obligations.OutputsInOrder := fun _ _ h => (step_extends h).out

end Sys2Proof.Machine
end

section
/-! The invariant of the machine in three parts: the array, the ranges of the registers, the sequence in progress with the
controller in step with it (R20 to R33, R60, R231). -/

namespace Sys2Proof.Machine

variable {s t : State}

/-- R60: the array is canonical and inside its address space. -/
structure State.ArrayOk (s : State) : Prop where
  wf : s.mem.wf = true
  range : s.mem.inRange s.cfg.flashSize = true

/-- R20 to R33: the ranges of the buffers, the indices and the receiver. -/
structure State.RegsOk (s : State) : Prop where
  buf : s.buf.length = s.cfg.frameBufSize
  frIdx : frameIndexOk s.cfg s.frIdx = true
  hsMatched : s.hsMatched ≤ 5
  hsBudget : s.hsBudget ≤ s.cfg.handshakeBudget
  sv : s.sv.length = vecLen
  chunk : s.chunk.length = blockSize
  digest : s.digest.length = 32
  dgN : s.dgN < 2 ^ 24
  dgCtx : s.dgCtx.pending.length < blockSize
  rx : s.rxEnable = false → s.rxq = []

/-- R22: the position and the sequence are legal, and the latch, the cycle and the transport are in step with them. -/
structure State.SeqOk (s : State) : Prop where
  pos : legalPos s.ctl s.pos = true
  todo : legalTodo s.cfg s.ctl s.pos s.todo = true
  front : s.frontOk = true
  latch : s.latchOk = true
  cycle : s.cycleOk = true
  dispatch : s.pos = .dispatch → 2 ≤ s.frIdx
  below : s.cfg.addrSumMode = .exact → s.staysBelow s.cfg.btldOffset = true

theorem inv_iff : s.Inv ↔ s.cfg.Wf ∧ s.ArrayOk ∧ s.RegsOk ∧ s.SeqOk := by
  constructor
  · rintro ⟨hcfg, hwf, hrange, hpos, htodo, hfront, hlatch, hcycle, hbuf, hidx, hdispatch, hmatched, hbudget, hsv, hchunk,
      hdigest, hdgN, hctx, hrx, hbelow⟩
    exact ⟨hcfg, ⟨hwf, hrange⟩, ⟨hbuf, hidx, hmatched, hbudget, hsv, hchunk, hdigest, hdgN, hctx, hrx⟩,
      ⟨hpos, htodo, hfront, hlatch, hcycle, hdispatch, hbelow⟩⟩
  · rintro ⟨hcfg, ⟨hwf, hrange⟩, ⟨hbuf, hidx, hmatched, hbudget, hsv, hchunk, hdigest, hdgN, hctx, hrx⟩,
      ⟨hpos, htodo, hfront, hlatch, hcycle, hdispatch, hbelow⟩⟩
    exact ⟨hcfg, hwf, hrange, hpos, htodo, hfront, hlatch, hcycle, hbuf, hidx, hdispatch, hmatched, hbudget, hsv, hchunk,
      hdigest, hdgN, hctx, hrx, hbelow⟩

theorem State.Inv.cfg (h : s.Inv) : s.cfg.Wf := (inv_iff.1 h).1
theorem State.Inv.array (h : s.Inv) : s.ArrayOk := (inv_iff.1 h).2.1
theorem State.Inv.regs (h : s.Inv) : s.RegsOk := (inv_iff.1 h).2.2.1
theorem State.Inv.seq (h : s.Inv) : s.SeqOk := (inv_iff.1 h).2.2.2

/-! ### Legal sequences -/

theorem endsWith_cons {last task : Task} {p : Task → Bool} {rest : List Task} :
    endsWith last p (task :: rest) = true ↔ task = last ∧ rest = [] ∨ p task = true ∧ endsWith last p rest = true := by
  cases rest with
  | nil => simp [endsWith]
  | cons next more => simp [endsWith, List.getLast?_cons_cons, and_left_comm]

theorem endsWith_append {last : Task} {p : Task → Bool} {rest : List Task} (h : endsWith last p rest = true) :
    ∀ xs : List Task, (∀ x ∈ xs, p x = true) → endsWith last p (xs ++ rest) = true := by
  intro xs
  induction xs with
  | nil => exact fun _ => h
  | cons x xs ih =>
    intro hxs
    rw [List.forall_mem_cons] at hxs
    exact endsWith_cons.2 (.inr ⟨hxs.1, ih hxs.2⟩)

section
variable {c : Params} {ctl : Ctl} {pos : Pos} {rest : List Task}

/-- R22: where a sequence can stand in progress. -/
theorem legalTodo_cons {now : Task} (h : legalTodo c ctl pos (now :: rest) = true) :
    (ctl = .erase ∧ pos = .reply ∧ (readsVector c (now :: rest) = true ∨ (∀ x ∈ now :: rest, x.stores = true) ∨
        endsWith .enterReceive Task.sends (now :: rest) = true)) ∨
      (ctl = .receive ∧ pos = .dispatch ∧ endsWith (.ret .success) Task.writes (now :: rest) = true) ∨
      ((ctl = .receive ∨ ctl = .verifyAndBoot) ∧ ∃ r, pos = .respond r ∧
        (now :: rest = [.tx (c.responseByte r), .after r] ∨ now :: rest = [.after r])) ∨
      (ctl = .verifyAndBoot ∧ pos = .body ∧ verifiesImage (now :: rest) = true) := by
  generalize hts : now :: rest = ts at h ⊢
  unfold legalTodo at h
  split at h
  case h_1 => cases hts
  case h_2 => exact .inl ⟨rfl, rfl, by simpa only [Bool.or_eq_true, List.all_eq_true, or_assoc] using h⟩
  case h_3 => exact .inr (.inl ⟨rfl, rfl, h⟩)
  case h_4 r _ => exact .inr (.inr (.inl ⟨.inl rfl, r, rfl, by simpa only [Bool.or_eq_true, decide_eq_true_eq] using h⟩))
  case h_5 r _ => exact .inr (.inr (.inl ⟨.inr rfl, r, rfl, by simpa only [Bool.or_eq_true, decide_eq_true_eq] using h⟩))
  case h_6 => exact .inr (.inr (.inr ⟨rfl, rfl, h⟩))
  case h_7 => cases h

theorem readsVector_cases {ts : List Task} (h : readsVector c ts = true) :
    ∃ a left got, a + left = vecLen ∧ ts = [.read a left got (.vector c.btldOffset)] := by
  unfold readsVector at h
  split at h
  · next a left got limit =>
    simp only [Bool.and_eq_true, decide_eq_true_eq] at h
    exact ⟨a, left, got, by simpa using h.1, by rw [h.2]⟩
  · cases h

/-- R22: where an operation can stand first in a sequence, and what can come after it. -/
def Task.Stands (c : Params) (ctl : Ctl) (pos : Pos) (rest : List Task) : Task → Prop
  | .read a left _ use => rest = [] ∧ (ctl = .erase ∧ pos = .reply ∧ use = .vector c.btldOffset ∧ a + left = vecLen ∨
      ctl = .verifyAndBoot ∧ pos = .body ∧ ∀ limit, use ≠ .vector limit)
  | .write _ _ | .commit => ctl = .erase ∧ pos = .reply ∧ (∀ x ∈ rest, x.stores = true) ∨
      ctl = .receive ∧ pos = .dispatch ∧ endsWith (.ret .success) Task.writes rest = true
  | .erase _ | .eraseFrom _ _ => ctl = .erase ∧ pos = .reply ∧ ∀ x ∈ rest, x.stores = true
  | .tx b => ctl = .erase ∧ pos = .reply ∧ endsWith .enterReceive Task.sends rest = true ∨
      (ctl = .receive ∨ ctl = .verifyAndBoot) ∧ ∃ r, pos = .respond r ∧ rest = [.after r] ∧ b = c.responseByte r
  | .hashInit | .hashUpdate | .hashFinal | .verify _ => ctl = .verifyAndBoot ∧ pos = .body ∧ rest = []
  | .ret st => ctl = .receive ∧ pos = .dispatch ∧ st = .success ∧ rest = []
  | .after r => (ctl = .receive ∨ ctl = .verifyAndBoot) ∧ pos = .respond r ∧ rest = []
  | .enterReceive => ctl = .erase ∧ pos = .reply ∧ rest = []

theorem legalTodo_stands {now : Task} (h : legalTodo c ctl pos (now :: rest) = true) : now.Stands c ctl pos rest := by
  rcases legalTodo_cons h with ⟨rfl, rfl, hv | hs | he⟩ | ⟨rfl, rfl, he⟩ | ⟨hc, r, rfl, hr | hr⟩ | ⟨rfl, rfl, hv⟩
  · obtain ⟨a, left, got, hsum, hts⟩ := readsVector_cases hv
    cases hts
    exact ⟨rfl, .inl ⟨rfl, rfl, rfl, hsum⟩⟩
  · rw [List.forall_mem_cons] at hs
    cases now <;> simp_all [Task.Stands, Task.stores, Task.writes]
  · rw [endsWith_cons] at he
    cases now <;> simp_all [Task.Stands, Task.sends]
  · rw [endsWith_cons] at he
    cases now <;> simp_all [Task.Stands, Task.writes]
  · cases hr
    exact .inr ⟨hc, r, rfl, rfl, rfl⟩
  · cases hr
    exact ⟨hc, rfl, rfl⟩
  · cases now <;> cases rest <;> simp_all [verifiesImage, Task.Stands]
    rintro limit rfl
    simp at hv

theorem legalTodo_erase_iff {ts : List Task} : legalTodo c .erase .reply ts = true ↔
    readsVector c ts = true ∨ (∀ x ∈ ts, x.stores = true) ∨ endsWith .enterReceive Task.sends ts = true := by
  cases ts with
  | nil => simp [legalTodo]
  | cons => simp only [legalTodo, Bool.or_eq_true, List.all_eq_true, or_assoc]

theorem legalTodo_command {ts : List Task} (h : endsWith (.ret .success) Task.writes ts = true) :
    legalTodo c .receive .dispatch ts = true := by
  cases ts with
  | nil => rfl
  | cons => exact h

theorem legalTodo_respond {r : Response} (hc : ctl = .receive ∨ ctl = .verifyAndBoot) {ts : List Task}
    (h : ts = [.tx (c.responseByte r), .after r] ∨ ts = [.after r]) : legalTodo c ctl (.respond r) ts = true := by
  rcases hc with rfl | rfl <;> rcases h with rfl | rfl <;> simp [legalTodo]

/-- R122, R128: an operation of WRITE or ERASE_RANGE may give way to others of its kind. -/
theorem legalTodo_replace {now : Task} {xs : List Task} (hnow : now.stores = true)
    (h : legalTodo c ctl pos (now :: rest) = true)
    (hxs : ∀ x ∈ xs, x.stores = true ∧ (now.writes = true → x.writes = true)) :
    legalTodo c ctl pos (xs ++ rest) = true := by
  have herase (hrest : ∀ x ∈ rest, x.stores = true) : legalTodo c .erase .reply (xs ++ rest) = true :=
    legalTodo_erase_iff.2 (.inr (.inl fun x hx => (List.mem_append.1 hx).elim (fun hx => (hxs x hx).1) (hrest x)))
  have hstands := legalTodo_stands h
  cases now with
  | write | commit =>
    obtain ⟨rfl, rfl, hrest⟩ | ⟨rfl, rfl, hrest⟩ := hstands
    · exact herase hrest
    · exact legalTodo_command (endsWith_append hrest xs fun x hx => (hxs x hx).2 rfl)
  | erase | eraseFrom =>
    obtain ⟨rfl, rfl, hrest⟩ := hstands
    exact herase hrest
  | _ => cases hnow

end

end Sys2Proof.Machine
end

section
/-! The sequence in progress step by step: from a quiet controller, and at each primitive of WRITE, Commit, erase and Tx
(R22, R29, R30, R41, R122 to R128). -/

namespace Sys2Proof.Machine

variable {s t : State}

/-! ### Operations to come -/

/-- What holds of every operation of a sequence that is not its first. -/
structure Task.Ready (c : Params) (task : Task) : Prop where
  ok : task.ok = true
  noCommit : task ≠ .commit
  below : c.addrSumMode = .exact → task.below c.btldOffset = true

theorem ready_writeTasks {c : Params} {a : Nat} {v : List Byte}
    (h : c.addrSumMode = .exact → a + v.length ≤ c.btldOffset) : ∀ x ∈ writeTasks a v, x.Ready c := by
  intro x hx
  unfold writeTasks at hx
  split_ifs at hx with hv
  · cases hx
  · obtain rfl := List.mem_singleton.1 hx
    exact ⟨decide_eq_true hv, nofun, fun hm => decide_eq_true (h hm)⟩

theorem ready_eraseTasks {c : Params} {k n : Nat} (h : c.addrSumMode = .exact → 64 * (k + n) ≤ c.btldOffset) :
    ∀ x ∈ eraseTasks k n, x.Ready c := by
  intro x hx
  unfold eraseTasks at hx
  split_ifs at hx with hn
  · cases hx
  · obtain rfl := List.mem_singleton.1 hx
    exact ⟨decide_eq_true (Nat.pos_of_ne_zero hn), nofun, fun hm => decide_eq_true (h hm)⟩

theorem writes_writeTasks {a : Nat} {v : List Byte} : ∀ x ∈ writeTasks a v, x.writes = true := by
  intro x hx
  unfold writeTasks at hx
  split_ifs at hx
  · cases hx
  · rw [List.mem_singleton.1 hx]; rfl

theorem mem_afterLoad {a : Nat} {later : List Byte} {x : Task} (h : x ∈ afterLoad a later) :
    x = .commit ∨ x ∈ writeTasks (a + 1) later := by
  unfold afterLoad at h
  split_ifs at h
  · exact List.mem_cons.1 h
  · exact .inr h

theorem writes_afterLoad {a : Nat} {later : List Byte} : ∀ x ∈ afterLoad a later, x.writes = true :=
  fun x hx => (mem_afterLoad hx).elim (fun he => he ▸ rfl) (writes_writeTasks x)

theorem stores_of_writes {task : Task} (h : task.writes = true) : task.stores = true := by
  cases task with
  | write | commit => rfl
  | _ => cases h

theorem stores_eraseTasks {k n : Nat} : ∀ x ∈ eraseTasks k n, x.stores = true := by
  intro x hx
  unfold eraseTasks at hx
  split_ifs at hx
  · cases hx
  · rw [List.mem_singleton.1 hx]; rfl

/-! ### The controller and the first operation -/

/-- R29, R30, R41: what the controller and the transport hold while an operation stands first. -/
def State.Serves (s : State) : Task → Prop
  | .write a _ => s.nvmBusy = .idle ∧ s.txFlight = none ∧
      (s.latchBlk = none ∨ s.latchBlk = some (a / 64) ∧ ∀ cell ∈ s.latchMap, cell.1 < a % 64)
  | .commit => (s.nvmBusy = .idle ∨ s.nvmBusy = .program) ∧ s.txFlight = none ∧ s.latchBlk ≠ none
  | .erase k => (s.nvmBusy = .idle ∨ s.nvmBusy = .erase k) ∧ s.txFlight = none ∧ s.latchBlk = none
  | .tx b => s.nvmBusy = .idle ∧ (s.txFlight = none ∨ s.txFlight = some b) ∧ s.latchBlk = none
  | _ => s.nvmBusy = .idle ∧ s.txFlight = none ∧ s.latchBlk = none

theorem frontOk_nil (ht : s.todo = []) :
    s.frontOk = true ↔ s.nvmBusy = .idle ∧ s.txFlight = none ∧ s.latchBlk = none := by
  simp [State.frontOk, ht, and_assoc]

theorem frontOk_cons {now : Task} {rest : List Task} (ht : s.todo = now :: rest) :
    s.frontOk = true ↔ now.ok = true ∧ (∀ x ∈ rest, x.ok = true ∧ x ≠ .commit) ∧ s.Serves now := by
  rw [forall₂_and]
  cases now <;> simp only [State.frontOk, ht, State.Serves, List.all_cons, List.tail_cons, Bool.and_eq_true, Bool.or_eq_true,
    List.all_eq_true, decide_eq_true_eq, and_assoc]

theorem frontOk_of_ready {now : Task} {rest : List Task} (ht : s.todo = now :: rest) (hok : now.ok = true)
    (hrest : ∀ x ∈ rest, x.Ready s.cfg) (hserves : s.Serves now) : s.frontOk = true :=
  (frontOk_cons ht).2 ⟨hok, fun x hx => ⟨(hrest x hx).ok, (hrest x hx).noCommit⟩, hserves⟩

theorem latchOk_none (h : s.latchBlk = none) : s.latchOk = true ↔ s.latchMap = [] := by simp [State.latchOk, h]

theorem latchOk_some {k : Nat} (h : s.latchBlk = some k) :
    s.latchOk = true ↔ k < s.cfg.flashSize / 64 ∧ cellsSorted s.latchMap = true ∧ ∀ cell ∈ s.latchMap, cell.1 < 64 := by
  simp only [State.latchOk, h, Bool.and_eq_true, List.all_eq_true, decide_eq_true_eq, and_assoc]

theorem cycleOk_iff : s.cycleOk = true ↔ ∀ k, s.nvmBusy = .erase k → k < s.cfg.flashSize / 64 := by
  cases hb : s.nvmBusy <;> simp [State.cycleOk, hb]

theorem staysBelow_iff {n : Nat} : s.staysBelow n = true ↔
    (∀ x ∈ s.todo, x.below n = true) ∧ (∀ a ∈ latchAddrs s, a < n) ∧ ∀ k, s.nvmBusy = .erase k → 64 * k + 64 ≤ n := by
  cases hb : s.nvmBusy <;>
    simp only [State.staysBelow, hb, Bool.and_eq_true, List.all_eq_true, decide_eq_true_eq, and_assoc, reduceCtorEq,
      false_implies, implies_true, NvmBusy.erase.injEq, forall_eq']

namespace State.SeqOk

/-- A sequence to come while the controller and the transport are quiet. -/
theorem of_quiet (hq : s.Quiet) (hpos : legalPos s.ctl s.pos = true)
    (htodo : legalTodo s.cfg s.ctl s.pos s.todo = true) (hready : ∀ x ∈ s.todo, x.Ready s.cfg)
    (hdispatch : s.pos = .dispatch → 2 ≤ s.frIdx) : s.SeqOk := by
  obtain ⟨hblk, hmap, hbusy, hflight⟩ := hq
  have haddrs : latchAddrs s = [] := by simp only [latchAddrs, hblk]
  refine ⟨hpos, htodo, ?_, (latchOk_none hblk).2 hmap, cycleOk_iff.2 (by simp [hbusy]), hdispatch,
    fun hm => staysBelow_iff.2 ⟨fun x hx => (hready x hx).below hm, by simp [haddrs], by simp [hbusy]⟩⟩
  cases ht : s.todo with
  | nil => exact (frontOk_nil ht).2 ⟨hbusy, hflight, hblk⟩
  | cons now rest =>
    rw [ht, List.forall_mem_cons] at hready
    refine frontOk_of_ready ht hready.1.ok hready.2 ?_
    have hcommit := hready.1.noCommit
    cases now <;> simp_all [State.Serves]

/-- No sequence in progress while the controller and the transport are quiet. -/
theorem of_nil (hq : s.Quiet) (ht : s.todo = []) (hpos : legalPos s.ctl s.pos = true)
    (hdispatch : s.pos = .dispatch → 2 ≤ s.frIdx) : s.SeqOk :=
  of_quiet hq hpos (by rw [ht]; rfl) (by rw [ht]; nofun) hdispatch

variable {now : Task} {rest : List Task}

theorem serves (h : s.SeqOk) (ht : s.todo = now :: rest) : s.Serves now := ((frontOk_cons ht).1 h.front).2.2

theorem now_ok (h : s.SeqOk) (ht : s.todo = now :: rest) : now.ok = true := ((frontOk_cons ht).1 h.front).1

theorem now_below (h : s.SeqOk) (ht : s.todo = now :: rest) (hm : s.cfg.addrSumMode = .exact) :
    now.below s.cfg.btldOffset = true :=
  (staysBelow_iff.1 (h.below hm)).1 now (by rw [ht]; exact List.mem_cons_self)

theorem rest_ready (h : s.SeqOk) (ht : s.todo = now :: rest) : ∀ x ∈ rest, x.Ready s.cfg := by
  obtain ⟨-, hrest, -⟩ := (frontOk_cons ht).1 h.front
  exact fun x hx => ⟨(hrest x hx).1, (hrest x hx).2, fun hm =>
    (staysBelow_iff.1 (h.below hm)).1 x (by rw [ht]; exact List.mem_cons_of_mem _ hx)⟩

theorem stands (h : s.SeqOk) (ht : s.todo = now :: rest) : now.Stands s.cfg s.ctl s.pos rest :=
  legalTodo_stands (ht ▸ h.todo)

theorem latchMap_nil (h : s.SeqOk) (hblk : s.latchBlk = none) : s.latchMap = [] := (latchOk_none hblk).1 h.latch

theorem quiet_of_idle (h : s.SeqOk) (hi : s.nvmBusy = .idle ∧ s.txFlight = none ∧ s.latchBlk = none) : s.Quiet :=
  ⟨hi.2.2, h.latchMap_nil hi.2.2, hi.1, hi.2.1⟩

theorem quiet_of_nil (h : s.SeqOk) (ht : s.todo = []) : s.Quiet := h.quiet_of_idle ((frontOk_nil ht).1 h.front)

theorem latchBefore {a : Nat} {v : List Byte} (h : s.SeqOk) (ht : s.todo = .write a v :: rest) : s.LatchBefore a :=
  (h.serves ht).2.2.imp_left fun hblk => ⟨hblk, h.latchMap_nil hblk⟩

/-! ### Primitives that leave the controller or the transport at work -/

/-- R124: the start of a program cycle. -/
theorem startCommit (h : s.SeqOk) (ht : s.todo = .commit :: rest) : (startCommit s).SeqOk := by
  obtain ⟨hok, hrest, -, hflight, hblk⟩ := (frontOk_cons ht).1 h.front
  refine ⟨h.pos, h.todo, (frontOk_cons (s := Machine.startCommit s) ht).2 ⟨hok, hrest, .inr rfl, hflight, hblk⟩, h.latch, rfl,
    h.dispatch, fun hm => ?_⟩
  obtain ⟨hall, hlatch, -⟩ := staysBelow_iff.1 (h.below hm)
  exact staysBelow_iff.2 ⟨hall, hlatch, nofun⟩

/-- R127: the start of an erase cycle of a block of the array. -/
theorem startErase {k : Nat} (h : s.SeqOk) (ht : s.todo = .erase k :: rest) (hk : k < s.cfg.flashSize / 64) :
    (s.setBusy (.erase k)).SeqOk := by
  obtain ⟨hok, hrest, -, hflight, hblk⟩ := (frontOk_cons ht).1 h.front
  refine ⟨h.pos, h.todo, (frontOk_cons (s := s.setBusy (.erase k)) ht).2 ⟨hok, hrest, .inr rfl, hflight, hblk⟩, h.latch,
    decide_eq_true hk, h.dispatch, fun hm => ?_⟩
  obtain ⟨hall, hlatch, -⟩ := staysBelow_iff.1 (h.below hm)
  refine staysBelow_iff.2 ⟨hall, hlatch, fun j hj => ?_⟩
  cases hj
  exact of_decide_eq_true (h.now_below ht hm)

/-- R41: the start of a Tx. -/
theorem startTx {b : Byte} (h : s.SeqOk) (ht : s.todo = .tx b :: rest) : (startTx b s).SeqOk := by
  obtain ⟨hok, hrest, hbusy, -, hblk⟩ := (frontOk_cons ht).1 h.front
  exact ⟨h.pos, h.todo, (frontOk_cons (s := Machine.startTx b s) ht).2 ⟨hok, hrest, hbusy, .inr rfl, hblk⟩, h.latch, h.cycle,
    h.dispatch, h.below⟩

/-- R122, R123: the next byte of a WRITE enters the latch. -/
theorem load {a : Nat} {v : Byte} {later : List Byte} (h : s.SeqOk) (hcfg : s.cfg.Wf)
    (ht : s.todo = .write a (v :: later) :: rest) (ha : a < s.cfg.flashSize) :
    (loaded a v (afterLoad a later ++ rest) s).SeqOk := by
  obtain ⟨hbusy, hflight, -⟩ := h.serves ht
  obtain ⟨h64, -⟩ := hcfg
  have hbelow : s.cfg.addrSumMode = .exact → a + (later.length + 1) ≤ s.cfg.btldOffset := fun hm =>
    of_decide_eq_true (h.now_below ht hm)
  have hready : ∀ x ∈ writeTasks (a + 1) later ++ rest, x.Ready s.cfg := List.forall_mem_append.2
    ⟨ready_writeTasks fun hm => by have := hbelow hm; omega, h.rest_ready ht⟩
  have hcells : ∀ d ∈ setCell (a % 64) v s.latchMap, d.1 ≤ a % 64 := fun d hd =>
    (mem_setCell.1 hd).elim (fun he => he ▸ Nat.le_refl _) fun hd => ((h.latchBefore ht).below d hd.1).le
  refine ⟨h.pos, legalTodo_replace (now := .write a (v :: later)) rfl (ht ▸ h.todo) fun x hx =>
    ⟨stores_of_writes (writes_afterLoad x hx), fun _ => writes_afterLoad x hx⟩, ?_, ?_, ?_, h.dispatch, fun hm => ?_⟩
  · by_cases hend : (a + 1) % 64 = 0 ∨ later = []
    · rw [afterLoad_commit hend]
      exact frontOk_of_ready (now := .commit) rfl rfl hready ⟨.inl hbusy, hflight, nofun⟩
    · obtain ⟨h0, hne⟩ := not_or.1 hend
      obtain ⟨w, more, rfl⟩ := List.exists_cons_of_ne_nil hne
      rw [afterLoad_write h0]
      refine frontOk_of_ready (now := .write (a + 1) (w :: more)) rfl rfl (h.rest_ready ht)
        ⟨hbusy, hflight, .inr ⟨?_, fun d hd => ?_⟩⟩
      · exact congrArg some (show a / 64 = (a + 1) / 64 by omega)
      · have := hcells d hd
        omega
  · have hsorted : cellsSorted s.latchMap = true := by
      cases hblk : s.latchBlk with
      | none => rw [h.latchMap_nil hblk]; rfl
      | some k => exact ((latchOk_some hblk).1 h.latch).2.1
    refine (latchOk_some (k := a / 64) rfl).2 ⟨show a / 64 < s.cfg.flashSize / 64 by omega, setCell_sorted _ _ hsorted, ?_⟩
    intro d hd
    have := hcells d hd
    omega
  · exact cycleOk_iff.2 fun k hk => absurd (hbusy.symm.trans hk) nofun
  · have hn := hbelow hm
    refine staysBelow_iff.2 ⟨fun x hx => ?_, fun x hx => ?_, fun k hk => absurd (hbusy.symm.trans hk) nofun⟩
    · rcases List.mem_append.1 hx with hx | hx
      · rcases mem_afterLoad hx with rfl | hx
        · rfl
        · exact (hready x (List.mem_append_left _ hx)).below hm
      · exact (h.rest_ready ht x hx).below hm
    · obtain ⟨k, hk, d, hd, rfl⟩ := mem_latchAddrs.1 hx
      obtain rfl : a / 64 = k := Option.some.inj hk
      have := hcells d hd
      show 64 * (a / 64) + d.1 < s.cfg.btldOffset
      omega

end State.SeqOk

end Sys2Proof.Machine
end

section
/-! One primitive keeps the invariant (R11, R22). -/

namespace Sys2Proof.Machine

variable {s t : State} {rest : List Task}

/-! ### The sequence -/

theorem ready_of_not_stores {c : Params} {task : Task} (hok : task.ok = true) (h : task.stores = false) :
    task.Ready c := by
  cases task with
  | write | commit | erase | eraseFrom => cases h
  | _ => exact ⟨hok, nofun, fun _ => rfl⟩

/-- R210 to R215: an operation of VerifyImage stands alone in its sequence. -/
theorem verifying_seq {task : Task} (hq : s.Quiet) (hc : s.ctl = .verifyAndBoot) (hp : s.pos = .body)
    (ht : s.todo = [task]) (hv : verifiesImage [task] = true) (hok : task.ok = true) (hs : task.stores = false) :
    s.SeqOk := by
  refine .of_quiet hq (by rw [hc, hp]; rfl) (by rw [hc, hp, ht]; exact hv) ?_ (by rw [hp]; nofun)
  rw [ht]
  exact List.forall_mem_singleton.2 (ready_of_not_stores hok hs)

theorem stores_saveVector (v : List Byte) (n : Nat) :
    ∀ x ∈ Task.erase 1 :: (writeTasks backupAddr v ++ eraseTasks 0 n), x.stores = true :=
  List.forall_mem_cons.2 ⟨rfl, List.forall_mem_append.2 ⟨fun x hx => stores_of_writes (writes_writeTasks x hx),
    stores_eraseTasks⟩⟩

/-- R128 steps 2 and 3 stay below a limit of at least two blocks. -/
theorem ready_saveVector {c : Params} {v : List Byte} (hv : v.length = vecLen) (h128 : 128 ≤ c.btldOffset) :
    ∀ x ∈ Task.erase 1 :: (writeTasks backupAddr v ++ eraseTasks 0 (c.btldOffset / 64)), x.Ready c := by
  refine List.forall_mem_cons.2 ⟨⟨rfl, nofun, fun _ => decide_eq_true h128⟩, List.forall_mem_append.2
    ⟨ready_writeTasks fun _ => ?_, ready_eraseTasks fun _ => by omega⟩⟩
  rw [hv, backupAddr, vecLen]
  omega

/-- R121: the bytes of a READ go on to what they are for. -/
theorem useRead_seq {use : ReadUse} {a left : Nat} {got bytes : List Byte} (h : s.SeqOk) (hcfg : s.cfg.Wf)
    (ht : s.todo = .read a left got use :: rest) (hbytes : bytes.length = use.size) : (useRead use bytes rest s).SeqOk := by
  obtain ⟨-, -, -, -, hb128, -⟩ := hcfg
  have hq : s.Quiet := h.quiet_of_idle (h.serves ht)
  obtain ⟨rfl, ⟨hc, hp, rfl, -⟩ | ⟨hc, hp, huse⟩⟩ := h.stands ht
  · have htodo : (useRead (.vector s.cfg.btldOffset) bytes [] s).todo =
        .erase 1 :: (writeTasks backupAddr bytes ++ eraseTasks 0 (s.cfg.btldOffset / 64)) :=
      congrArg (Task.erase 1 :: ·) (List.append_nil _)
    refine .of_quiet (s := useRead (.vector s.cfg.btldOffset) bytes [] s) hq h.pos ?_ ?_ h.dispatch <;> rw [htodo]
    · rw [show (useRead (.vector s.cfg.btldOffset) bytes [] s).ctl = .erase from hc,
        show (useRead (.vector s.cfg.btldOffset) bytes [] s).pos = .reply from hp]
      exact legalTodo_erase_iff.2 (.inr (.inl (stores_saveVector _ _)))
    · exact ready_saveVector hbytes hb128
  · cases use with
    | vector limit => exact absurd rfl (huse limit)
    | imageSize => exact verifying_seq (s := useSize bytes [] s) hq hc hp rfl rfl rfl rfl
    | chunk => exact verifying_seq (s := storeChunk bytes [] s) hq hc hp rfl rfl rfl rfl
    | signature => exact verifying_seq (s := s.setTodo [.verify bytes]) hq hc hp rfl rfl rfl rfl

theorem State.SeqOk.setDraws (h : s.SeqOk) (d : Nat) : (s.setDraws d).SeqOk :=
  ⟨h.pos, h.todo, h.front, h.latch, h.cycle, h.dispatch, h.below⟩

/-- R120: the bytes a READ has still to read and those it has make up what it is for. -/
theorem read_ok {a left : Nat} {got : List Byte} {use : ReadUse} (h : s.SeqOk)
    (ht : s.todo = .read a left got use :: rest) : 0 < left ∧ got.length + left = use.size := by
  simpa only [Task.ok, Bool.and_eq_true, decide_eq_true_eq] using h.now_ok ht

theorem readStep_seq {a left : Nat} {got : List Byte} {use : ReadUse} (h : s.SeqOk) (hcfg : s.cfg.Wf)
    (ht : s.todo = .read a left got use :: rest) : (readStep a left got use rest s).SeqOk := by
  obtain ⟨hleft, hsize⟩ := read_ok h ht
  obtain ⟨d, hd⟩ := afterByte_eq s a
  match left, hleft with
  | 1, _ =>
    rw [readStep, hd]
    exact useRead_seq (h.setDraws d) hcfg ht (by simpa using hsize)
  | more + 2, _ =>
    rw [readStep, hd]
    have hq : s.Quiet := h.quiet_of_idle (h.serves ht)
    have hok : (Task.read (a + 1) (more + 1) (got ++ [readByte s a]) use).ok = true := by
      simp only [Task.ok, Bool.and_eq_true, decide_eq_true_eq, List.length_append, List.length_singleton]
      omega
    obtain ⟨rfl, ⟨hc, hp, rfl, hsum⟩ | ⟨hc, hp, huse⟩⟩ := h.stands ht
    · refine .of_quiet (s := (s.setDraws d).setTodo _) hq h.pos ?_ ?_ h.dispatch
      · show legalTodo s.cfg s.ctl s.pos _ = true
        rw [hc, hp]
        refine legalTodo_erase_iff.2 (.inl ?_)
        simpa [readsVector] using (by omega : a + 1 + (more + 1) = vecLen)
      · exact List.forall_mem_singleton.2 (ready_of_not_stores hok rfl)
    · refine verifying_seq (s := (s.setDraws d).setTodo _) hq hc hp rfl ?_ hok rfl
      cases use with
      | vector limit => exact absurd rfl (huse limit)
      | _ => rfl

theorem writeStep_seq {a : Nat} {bytes : List Byte} (h : s.SeqOk) (hcfg : s.cfg.Wf) (ht : s.todo = .write a bytes :: rest)
    (hstep : writeStep a bytes rest s = .next t) : t.SeqOk := by
  cases bytes with
  | nil => exact nomatch h.now_ok ht
  | cons v later =>
    obtain ⟨ha, -, rfl⟩ := latchLoad_cases hstep
    exact h.load hcfg ht ha

theorem commitStep_seq (h : s.SeqOk) (ht : s.todo = .commit :: rest) (hstep : commitStep rest s = .next t) : t.SeqOk := by
  unfold commitStep at hstep
  split_ifs at hstep with hb <;> cases hstep
  · obtain ⟨-, hflight, -⟩ := h.serves ht
    exact .of_quiet ⟨rfl, rfl, rfl, hflight⟩ h.pos (legalTodo_replace (xs := []) rfl (ht ▸ h.todo) nofun)
      (h.rest_ready ht) h.dispatch
  · exact h.startCommit ht

theorem eraseStep_seq {k : Nat} (h : s.SeqOk) (ht : s.todo = .erase k :: rest) (hstep : eraseStep k rest s = .next t) :
    t.SeqOk := by
  obtain ⟨-, rfl⟩ | ⟨-, hk, rfl⟩ := eraseStep_cases hstep
  · obtain ⟨-, hflight, hblk⟩ := h.serves ht
    exact .of_quiet ⟨hblk, h.latchMap_nil hblk, rfl, hflight⟩ h.pos
      (legalTodo_replace (xs := []) rfl (ht ▸ h.todo) nofun) (h.rest_ready ht) h.dispatch
  · exact h.startErase ht hk

theorem eraseFromStep_seq {k n : Nat} (h : s.SeqOk) (hcfg : s.cfg.Wf) (hsv : s.sv.length = vecLen)
    (ht : s.todo = .eraseFrom k n :: rest) (hstep : eraseFromStep k n rest s = .next t) : t.SeqOk := by
  have hn : 0 < n := of_decide_eq_true (h.now_ok ht)
  obtain ⟨-, -, -, -, hb128, -⟩ := hcfg
  have hbelow : s.cfg.addrSumMode = .exact → 64 * (k + n) ≤ s.cfg.btldOffset := fun hm =>
    of_decide_eq_true (h.now_below ht hm)
  have hq : s.Quiet := h.quiet_of_idle (h.serves ht)
  have hstores : ∀ x ∈ Task.erase k :: (restoreVector k s ++ eraseTasks (k + 1) (n - 1)), x.stores = true := by
    refine List.forall_mem_cons.2 ⟨rfl, List.forall_mem_append.2 ⟨fun x hx => ?_, stores_eraseTasks⟩⟩
    unfold restoreVector at hx
    split_ifs at hx
    · exact stores_of_writes (writes_writeTasks x hx)
    · cases hx
  have hready : ∀ x ∈ Task.erase k :: (restoreVector k s ++ eraseTasks (k + 1) (n - 1)), x.Ready s.cfg := by
    refine List.forall_mem_cons.2 ⟨⟨rfl, nofun, fun hm => decide_eq_true (by have := hbelow hm; omega)⟩,
      List.forall_mem_append.2 ⟨fun x hx => ?_, ready_eraseTasks fun hm => by have := hbelow hm; omega⟩⟩
    unfold restoreVector at hx
    split_ifs at hx
    · exact ready_writeTasks (fun _ => by rw [hsv, vecLen]; omega) x hx
    · cases hx
  obtain ⟨hk, rfl⟩ := eraseFromStep_cases hn hstep
  have hseq : (s.setTodo (.erase k :: (restoreVector k s ++ eraseTasks (k + 1) (n - 1) ++ rest))).SeqOk :=
    .of_quiet hq h.pos (legalTodo_replace (now := .eraseFrom k n) rfl (ht ▸ h.todo) fun x hx => ⟨hstores x hx, nofun⟩)
      (List.forall_mem_append.2 ⟨hready, h.rest_ready ht⟩) h.dispatch
  exact hseq.startErase rfl hk

theorem txStep_seq {b : Byte} (h : s.SeqOk) (ht : s.todo = .tx b :: rest) : (txStep b rest s).SeqOk := by
  unfold txStep
  split
  · next c _ =>
    obtain ⟨hbusy, -, hblk⟩ := h.serves ht
    refine .of_quiet (s := finishTx c (s.setTodo rest)) ⟨hblk, h.latchMap_nil hblk, hbusy, rfl⟩ h.pos ?_ (h.rest_ready ht)
      h.dispatch
    show legalTodo s.cfg s.ctl s.pos rest = true
    obtain ⟨hc, hp, hend⟩ | ⟨hc, r, hp, rfl, -⟩ := h.stands ht
    · rw [hc, hp]
      exact legalTodo_erase_iff.2 (.inr (.inr hend))
    · rw [hp]
      exact legalTodo_respond hc (.inr rfl)
  · exact h.startTx ht

theorem nextChunk_seq (hq : s.Quiet) (hc : s.ctl = .verifyAndBoot) (hp : s.pos = .body) : (nextChunk [] s).SeqOk := by
  unfold nextChunk
  split_ifs
  · exact verifying_seq (s := s.setTodo [.hashFinal]) hq hc hp rfl rfl rfl rfl
  · exact verifying_seq (s := s.setTodo [.read s.dgAddr blockSize [] .chunk]) hq hc hp rfl rfl rfl rfl

theorem afterResponse_seq {r : Response} (hq : s.Quiet) (ht : s.todo = []) : (afterResponse r s).SeqOk := by
  cases r <;> exact .of_nil hq ht rfl nofun

theorem taskStep_seq {now : Task} (h : s.SeqOk) (hcfg : s.cfg.Wf) (hsv : s.sv.length = vecLen)
    (ht : s.todo = now :: rest) (hstep : taskStep now rest s = .next t) : t.SeqOk := by
  cases now with
  | read a left got use => cases hstep; exact readStep_seq h hcfg ht
  | write a bytes => exact writeStep_seq h hcfg ht hstep
  | commit => exact commitStep_seq h ht hstep
  | erase k => exact eraseStep_seq h ht hstep
  | eraseFrom k n => exact eraseFromStep_seq h hcfg hsv ht hstep
  | tx b => cases hstep; exact txStep_seq h ht
  | hashInit =>
    cases hstep
    obtain ⟨hc, hp, rfl⟩ := h.stands ht
    exact nextChunk_seq (s := s.setHash 0 s.dgN s.chunk hashInit) (h.quiet_of_idle (h.serves ht)) hc hp
  | hashUpdate =>
    cases hstep
    obtain ⟨hc, hp, rfl⟩ := h.stands ht
    exact nextChunk_seq (s := s.setHash _ _ _ _) (h.quiet_of_idle (h.serves ht)) hc hp
  | hashFinal =>
    cases hstep
    obtain ⟨hc, hp, rfl⟩ := h.stands ht
    exact verifying_seq (s := finishHash [] s) (h.quiet_of_idle (h.serves ht)) hc hp rfl rfl rfl rfl
  | verify sig =>
    cases hstep
    obtain ⟨hc, -, rfl⟩ := h.stands ht
    refine .of_nil (s := judgeImage sig [] s) (h.quiet_of_idle (h.serves ht)) rfl ?_ nofun
    show legalPos s.ctl (.respond (verdictResponse _)) = true
    rw [hc, verdictResponse]
    split_ifs <;> rfl
  | ret st =>
    cases hstep
    obtain ⟨hc, -, rfl, rfl⟩ := h.stands ht
    exact .of_nil (s := returnStatus .success (s.setTodo [])) (h.quiet_of_idle (h.serves ht)) rfl
      (show legalPos s.ctl (.respond .ack) = true by rw [hc]; rfl) nofun
  | after r =>
    cases hstep
    obtain ⟨-, -, rfl⟩ := h.stands ht
    exact afterResponse_seq (s := s.setTodo []) (h.quiet_of_idle (h.serves ht)) rfl
  | enterReceive =>
    cases hstep
    obtain ⟨-, -, rfl⟩ := h.stands ht
    exact .of_nil (s := enterReceive (s.setTodo [])) (h.quiet_of_idle (h.serves ht)) rfl rfl nofun

/-! ### The registers -/

theorem State.RegsOk.setDraws (h : s.RegsOk) (d : Nat) : (s.setDraws d).RegsOk := { h with }

theorem hashInit_pending : hashInit.pending.length < blockSize := by decide

theorem useRead_regs {use : ReadUse} {bytes : List Byte} (h : s.RegsOk) (hbytes : bytes.length = use.size) :
    (useRead use bytes rest s).RegsOk := by
  cases use with
  | vector limit => exact { h with sv := hbytes }
  | imageSize => exact { h with dgN := be24_lt _ _ _ }
  | chunk =>
    refine { h with chunk := ?_ }
    rw [useRead, storeChunk_chunk]
    split_ifs
    exacts [canon_length hbytes, hbytes]
  | signature => exact { h with }

theorem readStep_regs {a left : Nat} {got : List Byte} {use : ReadUse} (h : s.RegsOk) (hleft : 0 < left)
    (hsize : got.length + left = use.size) : (readStep a left got use rest s).RegsOk := by
  obtain ⟨d, hd⟩ := afterByte_eq s a
  match left, hleft with
  | 1, _ =>
    rw [readStep, hd]
    exact useRead_regs (h.setDraws d) (by simpa using hsize)
  | more + 2, _ =>
    rw [readStep, hd]
    exact { h with }

theorem nextChunk_regs (h : s.RegsOk) : (nextChunk rest s).RegsOk := by
  unfold nextChunk
  exact { h with }

/-- R27: index 0 is in range for a buffer that holds anything. -/
theorem frameIndexOk_zero {c : Params} (h : 2 ≤ c.frameBufSize) : frameIndexOk c 0 = true := by
  unfold frameIndexOk
  split <;> exact decide_eq_true (by omega)

theorem taskStep_regs {now : Task} (h : s.RegsOk) (hcfg : s.cfg.Wf) (hseq : s.SeqOk) (ht : s.todo = now :: rest)
    (hstep : taskStep now rest s = .next t) : t.RegsOk := by
  obtain ⟨-, -, -, -, -, -, hbuf, -⟩ := hcfg
  cases now with
  | read a left got use =>
    cases hstep
    obtain ⟨hleft, hsize⟩ := read_ok hseq ht
    exact readStep_regs h hleft hsize
  | write a bytes =>
    cases bytes with
    | nil => cases hstep; exact { h with }
    | cons v later => obtain ⟨-, -, rfl⟩ := latchLoad_cases hstep; exact { h with }
  | commit =>
    rw [taskStep, commitStep] at hstep
    split_ifs at hstep <;> cases hstep <;> exact { h with }
  | erase k => obtain ⟨-, rfl⟩ | ⟨-, -, rfl⟩ := eraseStep_cases hstep <;> exact { h with }
  | eraseFrom k n =>
    obtain ⟨-, rfl⟩ := eraseFromStep_cases (of_decide_eq_true (hseq.now_ok ht)) hstep
    exact { h with }
  | tx b => cases hstep; unfold txStep; split <;> exact { h with }
  | hashInit => cases hstep; exact nextChunk_regs (s := s.setHash 0 s.dgN s.chunk hashInit) { h with dgCtx := hashInit_pending }
  | hashUpdate =>
    cases hstep
    exact nextChunk_regs (s := s.setHash _ _ s.chunk _) { h with dgCtx := hashUpdate_pending _ _ h.dgCtx }
  | hashFinal => cases hstep; exact { h with digest := hashFinal_length _ }
  | verify sig => cases hstep; exact { h with }
  | ret st => cases hstep; unfold returnStatus; split_ifs <;> exact { h with }
  | after r => cases hstep; cases r <;> exact { h with }
  | enterReceive => cases hstep; exact { h with frIdx := frameIndexOk_zero hbuf, rx := nofun }

/-! ### The array -/

/-- R29, R60: the latched addresses lie in the array. -/
theorem latchAddrs_inRange (h : s.SeqOk) (hcfg : s.cfg.Wf) {x : Nat} (hx : x ∈ latchAddrs s) : x < s.cfg.flashSize := by
  obtain ⟨h64, -⟩ := hcfg
  obtain ⟨k, hk, d, hd, rfl⟩ := mem_latchAddrs.1 hx
  obtain ⟨hblk, -, hcells⟩ := (latchOk_some hk).1 h.latch
  have := hcells d hd
  omega

/-- R60, R131: the exposed addresses lie in the array. -/
theorem exposedAddrs_inRange (h : s.SeqOk) (hcfg : s.cfg.Wf) {x : Nat} (hx : x ∈ exposedAddrs s) :
    x < s.cfg.flashSize := by
  rcases exposed_cases hx with hx | hb
  · exact latchAddrs_inRange h hcfg hx
  · obtain ⟨h64, -⟩ := hcfg
    have := cycleOk_iff.1 h.cycle _ hb
    omega

theorem finishCommit_array (h : s.ArrayOk) (hseq : s.SeqOk) (hcfg : s.cfg.Wf) : (finishCommit s).ArrayOk := by
  cases hk : s.latchBlk with
  | none =>
    have hmem : (finishCommit s).mem = s.mem := by simp [finishCommit, hk]
    exact ⟨hmem ▸ h.wf, hmem ▸ h.range⟩
  | some k =>
    rw [finishCommit_eq hk]
    exact ⟨wf_programCells _ _ _ h.wf, inRange_programCells _ _ _ h.range fun d hd =>
      latchAddrs_inRange hseq hcfg (mem_latchAddrs.2 ⟨k, hk, d, hd, rfl⟩)⟩

theorem taskStep_array {now : Task} (h : s.ArrayOk) (hcfg : s.cfg.Wf) (hseq : s.SeqOk)
    (hstep : taskStep now rest s = .next t) : t.ArrayOk := by
  have hsame := (taskStep_extends hstep).cfg
  rcases taskStep_mem hstep with hmem | ⟨-, -, rfl⟩ | ⟨k, -, -, rfl⟩
  · exact ⟨hmem ▸ h.wf, hmem ▸ hsame ▸ h.range⟩
  · have harray := finishCommit_array h hseq hcfg
    exact ⟨harray.wf, harray.range⟩
  · exact ⟨wf_eraseBlock k h.wf, inRange_eraseBlock k h.range⟩

theorem taskStep_inv {now : Task} (h : s.Inv) (ht : s.todo = now :: rest) (hstep : taskStep now rest s = .next t) :
    t.Inv :=
  inv_iff.2 ⟨(taskStep_extends hstep).cfg ▸ h.cfg, taskStep_array h.array h.cfg h.seq hstep,
    taskStep_regs h.regs h.cfg h.seq ht hstep, taskStep_seq h.seq h.cfg h.regs.sv ht hstep⟩

end Sys2Proof.Machine
end

section
/-! The other steps keep the invariant: what comes between two sequences, the moves of the environment, the reset; and the
reset state meets it (R231, R290, R291). -/

namespace Sys2Proof.Machine

variable {s t : State}

/-! ### Between two sequences -/

/-- R102: the WRITEs of an accepted command stay below BTLD_OFFSET under `EXACT`. -/
theorem ready_commandWrites {i : Instr} (hcfg : s.cfg.Wf) (hst : commandStatus i s = .success) :
    ∀ x ∈ commandWrites i s, x.Ready s.cfg := by
  obtain ⟨-, -, -, -, hb128, -⟩ := hcfg
  have hsig : s.cfg.signatOffset + 67 = s.cfg.btldOffset := by
    simp only [Params.signatOffset, Params.codeSizeOffset, sigLen, sizeLen]; omega
  have hsize : s.cfg.codeSizeOffset + 3 = s.cfg.btldOffset := by simp only [Params.codeSizeOffset, sizeLen]; omega
  cases i with
  | m p => exact ready_writeTasks fun _ => by rw [payloadBytes_length]; omega
  | n p => exact ready_writeTasks fun _ => by rw [payloadBytes_length]; omega
  | d p =>
    have hexact (hm : s.cfg.addrSumMode = .exact) := statusD_exact hm hst
    simp only [commandWrites]
    split_ifs with h0
    · refine List.forall_mem_append.2 ⟨ready_writeTasks fun _ => by rw [payloadBytes_length]; omega, fun x hx => ?_⟩
      split_ifs at hx
      · exact ready_writeTasks (fun hm => by have := hexact hm; rw [payloadBytes_length]; omega) x hx
      · cases hx
    · exact ready_writeTasks fun hm => by have := hexact hm; rw [payloadBytes_length]; omega
  | _ => nofun

theorem writes_commandWrites (i : Instr) (s : State) : ∀ x ∈ commandWrites i s, x.writes = true := by
  cases i with
  | m p => exact writes_writeTasks
  | n p => exact writes_writeTasks
  | d p =>
    simp only [commandWrites]
    split_ifs
    · refine List.forall_mem_append.2 ⟨writes_writeTasks, fun x hx => ?_⟩
      split_ifs at hx
      · exact writes_writeTasks x hx
      · cases hx
    · exact writes_writeTasks
  | _ => nofun

theorem command_seq {i : Instr} (h : s.SeqOk) (hcfg : s.cfg.Wf) (ht : s.todo = []) (hc : s.ctl = .receive)
    (hp : s.pos = .dispatch) (hi : CommandIs i s t) : t.SeqOk := by
  have hq := h.quiet_of_nil ht
  cases hi with
  | writes d hst _ h' =>
    subst h'
    refine .of_quiet (s := (s.setDraws d).setTodo _) hq h.pos ?_
      (List.forall_mem_append.2 ⟨ready_commandWrites hcfg hst, List.forall_mem_singleton.2 ?_⟩) h.dispatch
    · show legalTodo s.cfg s.ctl s.pos _ = true
      rw [hc, hp]
      exact legalTodo_command (endsWith_append rfl _ (writes_commandWrites i s))
    · exact ready_of_not_stores rfl rfl
  | resets _ h' => subst h'; exact .of_nil (s := resetDevice s) hq ht rfl nofun
  | raises hst h' =>
    subst h'
    refine .of_nil (s := raiseStatus _ s) hq ht ?_ nofun
    show legalPos s.ctl _ = true
    rw [hc]
    cases hs : commandStatus i s with
    | success => exact absurd hs hst
    | invalidPayload | deniedAddress => rfl

theorem command_regs {i : Instr} (h : s.RegsOk) (hi : CommandIs i s t) : t.RegsOk := by
  cases hi with
  | writes _ _ _ ht => exact ht ▸ { h with }
  | resets _ ht => exact ht ▸ { h with }
  | raises _ ht => exact ht ▸ { h with }

/-- The array and the parameters as before; what is left is the registers and the sequence. -/
theorem State.Spares.inv (hs : s.Spares t) (h : s.Inv) (hregs : t.RegsOk) (hseq : t.SeqOk) : t.Inv :=
  inv_iff.2 ⟨hs.cfg ▸ h.cfg, ⟨hs.mem ▸ h.array.wf, hs.mem ▸ hs.cfg ▸ h.array.range⟩, hregs, hseq⟩

theorem command_inv {i : Instr} (h : s.Inv) (ht : s.todo = []) (hc : s.ctl = .receive) (hp : s.pos = .dispatch)
    (hi : CommandIs i s t) : t.Inv :=
  hi.spares.inv h (command_regs h.regs hi) (command_seq h.seq h.cfg ht hc hp hi)

theorem matchNext_le (k : Nat) (b : Byte) : matchNext k b ≤ 5 := by
  unfold matchNext
  split_ifs with h
  · exact (List.getElem?_eq_some_iff.1 h).1
  · exact Nat.zero_le 5

theorem State.Inv.setRx (h : s.Inv) (q : List Byte) : (s.setRx true q).Inv :=
  inv_iff.2 ⟨h.cfg, ⟨h.array.wf, h.array.range⟩, { h.regs with rx := nofun },
    ⟨h.seq.pos, h.seq.todo, h.seq.front, h.seq.latch, h.seq.cycle, h.seq.dispatch, h.seq.below⟩⟩

theorem matchByte_inv {b : Byte} (h : s.Inv) (ht : s.todo = []) : (matchByte b s).Inv := by
  have hq := h.seq.quiet_of_nil ht
  obtain ⟨-, hb⟩ | ⟨-, hb⟩ := matchByte_cases b s
  · exact (matchByte_spares b s).inv h (hb ▸ { h.regs with hsMatched := Nat.le_refl 5 }) (hb ▸ .of_nil hq ht rfl nofun)
  · exact (matchByte_spares b s).inv h (hb ▸ { h.regs with hsMatched := matchNext_le _ _ })
      (hb ▸ .of_nil hq ht h.seq.pos h.seq.dispatch)

theorem handshakeStep_inv (h : s.Inv) (ht : s.todo = []) : (handshakeStep s).Inv := by
  have hq := h.seq.quiet_of_nil ht
  have hsame := handshakeStep_spares s
  have hbudget : s.hsBudget - 1 ≤ s.cfg.handshakeBudget := (Nat.sub_le _ _).trans h.regs.hsBudget
  obtain ⟨-, hs⟩ | ⟨-, -, hs⟩ | ⟨b, q, -, -, -, hs⟩ := handshakeStep_cases s
  · exact hsame.inv h (hs ▸ { h.regs with }) (hs ▸ .of_nil hq ht rfl nofun)
  · exact hsame.inv h (hs ▸ { h.regs with hsBudget := hbudget }) (hs ▸ .of_nil hq ht h.seq.pos h.seq.dispatch)
  · have hcharged : (s.setHandshake s.hsMatched (s.hsBudget - 1)).Inv :=
      inv_iff.2 ⟨h.cfg, ⟨h.array.wf, h.array.range⟩, { h.regs with hsBudget := hbudget },
        .of_nil hq ht h.seq.pos h.seq.dispatch⟩
    exact hs ▸ matchByte_inv (hcharged.setRx q) ht

theorem onByte_inv {b : Byte} (h : s.Inv) (ht : s.todo = []) (hc : s.ctl = .receive) (hp : s.pos ≠ .dispatch) :
    (onByte b s).Inv := by
  have hq := h.seq.quiet_of_nil ht
  have hsame := onByte_spares b s
  obtain ⟨-, -, -, -, -, -, hbuf2, -⟩ := h.cfg
  obtain ⟨hidx, hb⟩ | ⟨mode, i, buf, hb, hlen, hi⟩ := onByte_cases b s
  · exact hsame.inv h (hb ▸ { h.regs with })
      (hb ▸ .of_nil hq ht (show legalPos s.ctl .dispatch = true by rw [hc]; rfl) fun _ => hidx)
  · exact hsame.inv h (hb ▸ { h.regs with buf := hlen.trans h.regs.buf, frIdx := hi hbuf2 h.regs.frIdx })
      (hb ▸ .of_nil hq ht h.seq.pos fun hd => absurd hd hp)

theorem beforeResponse_regs (r : Response) (h : s.RegsOk) (hbuf : 2 ≤ s.cfg.frameBufSize) :
    (beforeResponse r s).RegsOk := by
  cases r with
  | ack => exact { h with frIdx := frameIndexOk_zero hbuf }
  | _ => exact h

/-- R155, R236, R239: the start of a response. -/
theorem respond_seq {r : Response} (h : s.SeqOk) (ht : s.todo = []) (hc : s.ctl = .receive ∨ s.ctl = .verifyAndBoot)
    (hp : s.pos = .respond r) : ((beforeResponse r s).setTodo [.tx (s.cfg.responseByte r), .after r]).SeqOk := by
  have hq := h.quiet_of_nil ht
  have htodo : legalTodo s.cfg s.ctl s.pos [.tx (s.cfg.responseByte r), .after r] = true := by
    rw [hp]
    exact legalTodo_respond hc (.inl rfl)
  have hready : ∀ x ∈ [Task.tx (s.cfg.responseByte r), .after r], x.Ready s.cfg :=
    List.forall_mem_cons.2 ⟨ready_of_not_stores rfl rfl, List.forall_mem_singleton.2 (ready_of_not_stores rfl rfl)⟩
  have hnot : s.pos ≠ .dispatch := by rw [hp]; nofun
  cases r <;> exact .of_quiet hq h.pos htodo hready fun hd => absurd hd hnot

/-- R235: the start of the handshake response. -/
theorem reply_seq (h : s.SeqOk) (ht : s.todo = []) (hc : s.ctl = .erase) (hp : s.pos = .reply) :
    (s.setTodo (hsRspBytes.map .tx ++ [.enterReceive])).SeqOk := by
  refine .of_quiet (s := s.setTodo _) (h.quiet_of_nil ht) h.pos ?_ ?_ h.dispatch
  · show legalTodo s.cfg s.ctl s.pos _ = true
    rw [hc, hp]
    exact legalTodo_erase_iff.2 (.inr (.inr rfl))
  · intro x hx
    rcases List.mem_append.1 hx with hx | hx
    · obtain ⟨b, -, rfl⟩ := List.mem_map.1 hx
      exact ready_of_not_stores rfl rfl
    · rw [List.mem_singleton.1 hx]
      exact ready_of_not_stores rfl rfl

/-- R235: the start of ERASE_RANGE. -/
theorem startEraseState_seq (h : s.SeqOk) (ht : s.todo = []) (hc : s.ctl = .erase) : (startEraseState s).SeqOk := by
  refine .of_quiet (s := startEraseState s) (h.quiet_of_nil ht) ?_ ?_
    (List.forall_mem_singleton.2 (ready_of_not_stores rfl rfl)) nofun
  · show legalPos s.ctl .reply = true
    rw [hc]; rfl
  · show legalTodo s.cfg s.ctl .reply _ = true
    rw [hc]
    exact legalTodo_erase_iff.2 (.inl (by simp [startEraseState, eraseRangeTasks, readsVector]))

theorem volatileReset_inv (hcfg : s.cfg.Wf) (harray : s.ArrayOk) : (volatileReset s).Inv := by
  obtain ⟨-, -, -, -, -, -, hbuf, -⟩ := id hcfg
  refine inv_iff.2 ⟨hcfg, ⟨harray.wf, harray.range⟩, ?_, .of_nil ⟨rfl, rfl, rfl, rfl⟩ rfl rfl nofun⟩
  exact {
    buf := by simp
    frIdx := frameIndexOk_zero hbuf
    hsMatched := Nat.zero_le _
    hsBudget := Nat.zero_le _
    sv := rfl
    chunk := rfl
    digest := rfl
    dgN := Nat.two_pow_pos 24
    dgCtx := by simp [HashCtx.unwritten, blockSize]
    rx := fun _ => rfl }

theorem resetBlock_inv (h : s.Inv) (hr : resetBlock s = .next t) : t.Inv := by
  obtain ⟨-, rfl⟩ := resetBlock_next hr
  exact volatileReset_inv h.cfg h.array

theorem FetchIs.inv (hf : FetchIs s t) (h : s.Inv) (ht : s.todo = []) : t.Inv := by
  have hq := h.seq.quiet_of_nil ht
  have hsame := hf.spares
  obtain ⟨-, -, -, -, -, -, hbuf, -⟩ := h.cfg
  cases hf with
  | entry hc _ ht' =>
    exact hsame.inv h (ht' ▸ { h.regs with hsMatched := Nat.zero_le 5, hsBudget := Nat.le_refl _, rx := nofun })
      (ht' ▸ .of_nil hq ht (show legalPos s.ctl .body = true by rw [hc]; rfl) nofun)
  | poll _ _ ht' => exact ht' ▸ handshakeStep_inv h ht
  | erase hc _ ht' => exact hsame.inv h (ht' ▸ { h.regs with rx := fun _ => rfl }) (ht' ▸ startEraseState_seq h.seq ht hc)
  | reply hc hp ht' => exact hsame.inv h (ht' ▸ { h.regs with }) (ht' ▸ reply_seq h.seq ht hc hp)
  | command hc hp hi => exact command_inv h ht hc hp hi
  | respond r hc hp ht' =>
    exact hsame.inv h (ht' ▸ { beforeResponse_regs r h.regs hbuf with }) (ht' ▸ respond_seq h.seq ht hc hp)
  | receive b q hc hp _ _ ht' =>
    exact ht' ▸ onByte_inv (h.setRx q) ht hc hp.1
  | silent _ ht' => exact ht' ▸ h
  | verify hc hp ht' =>
    have hbody : s.pos = .body := by
      have hpos := h.seq.pos
      rw [hc] at hpos
      cases hpos' : s.pos with
      | body => rfl
      | respond r => exact absurd hpos' (hp r)
      | _ => rw [hpos'] at hpos; cases hpos
    exact hsame.inv h (ht' ▸ { h.regs with }) (ht' ▸ verifying_seq (s := startVerify s) hq hc hbody rfl rfl rfl rfl)
  | reset _ hr => exact resetBlock_inv h hr

/-! ### The environment -/

theorem hostOffer_inv (b : Byte) (h : s.Inv) : (hostOffer b s).Inv := by
  obtain ⟨-, hs⟩ | hs := hostOffer_cases b s <;> rw [hs]
  · exact h.setRx _
  · exact h

theorem powerFail_inv (h : s.Inv) : (powerFail s).Inv :=
  inv_iff.2 ⟨h.cfg, ⟨wf_drawCells _ _ h.array.wf, inRange_drawCells _ h.array.range fun _ hx =>
      exposedAddrs_inRange h.seq h.cfg hx⟩, { h.regs with rx := fun _ => rfl },
    .of_nil ⟨rfl, rfl, rfl, rfl⟩ rfl h.seq.pos h.seq.dispatch⟩

theorem environmentMove_inv (m : Move) (h : s.Inv) : (environmentMove m s).Inv := by
  cases m with
  | offer b => exact hostOffer_inv b h
  | powerFail => exact powerFail_inv h
  | run | read => exact h

/-! ### A whole step -/

/-- Settles O56: the environment's moves, the reset, one primitive and what comes between two sequences each keep the
array, the registers and the sequence in step. -/
theorem stepKeepsInvariant : Obligations.StepKeepsInvariant := by
  intro s t h hstep
  have henv (e : List Move) : (s.setEnv e).Inv := h
  obtain ⟨-, hstep⟩ := step_cases hstep
  cases hstep with
  | environment m e _ _ ht => exact ht ▸ environmentMove_inv m (henv e)
  | reset e _ _ hr => exact resetBlock_inv (henv e) hr
  | task e _ _ now rest ht htask => exact taskStep_inv (henv e) ht htask
  | fetch e _ _ ht hfetch => exact (fetch_cases hfetch).inv (henv e) ht

/-- The example configuration meets the constraints (R7). -/
theorem launch_wf : Config.launch.Wf := by decide

/-- Settles O55: reset memory is empty, so it is canonical and reads as the vector of the launch configuration. -/
theorem resetMeetsInvariant : Obligations.ResetMeetsInvariant := by
  refine ⟨inv_iff.2 ⟨launch_wf, ⟨rfl, rfl⟩, ?_, .of_nil ⟨rfl, rfl, rfl, rfl⟩ rfl rfl nofun⟩, fun _ => ⟨fun _ => rfl, nofun⟩⟩
  exact {
    buf := by simp [State.reset, Config.launch]
    frIdx := rfl
    hsMatched := Nat.zero_le _
    hsBudget := Nat.zero_le _
    sv := rfl
    chunk := rfl
    digest := rfl
    dgN := Nat.two_pow_pos 24
    dgCtx := by simp [State.reset, HashCtx.unwritten, blockSize]
    rx := fun _ => rfl }

end Sys2Proof.Machine
end

section
/-! The addresses a sequence in progress may still change (R42, R65, R74, R131): no step changes another one, and none joins
them while the sequence runs. -/

namespace Sys2Proof.Machine

variable {s t : State} {rest : List Task} {x : Nat}

theorem pending_false_iff : s.pending x = false ↔
    (∀ task ∈ s.todo, task.target x = false) ∧ x ∉ latchAddrs s ∧ x ∉ exposedAddrs s := by
  simp only [State.pending, Bool.or_eq_false_iff, List.any_eq_false, Bool.not_eq_true, decide_eq_false_iff_not, and_assoc]

/-- With an empty latch and the array idle only the operations to come count. -/
theorem pending_false_of_idle (hblk : s.latchBlk = none) (hbusy : s.nvmBusy = .idle)
    (h : ∀ task ∈ s.todo, task.target x = false) : s.pending x = false :=
  pending_false_iff.2 ⟨h, by simp [latchAddrs, hblk], by simp [exposedAddrs, hbusy]⟩

theorem target_write {a : Nat} {v : List Byte} :
    (Task.write a v).target x = false ↔ ¬ (a ≤ x ∧ x < a + v.length) := by
  rw [Task.target, ← Bool.decide_and, decide_eq_false_iff_not]

theorem target_eraseFrom {k n : Nat} : (Task.eraseFrom k n).target x = false ↔ ¬ (k ≤ x / 64 ∧ x / 64 < k + n) := by
  rw [Task.target, ← Bool.decide_and, decide_eq_false_iff_not]

theorem target_erase {k : Nat} : (Task.erase k).target x = false ↔ x / 64 ≠ k := decide_eq_false_iff_not

theorem target_vector {a left limit : Nat} {got : List Byte} :
    (Task.read a left got (.vector limit)).target x = false ↔ x / 64 ≠ 1 ∧ ¬ x / 64 < limit / 64 := by
  simp only [Task.target, Bool.or_eq_false_iff, decide_eq_false_iff_not]

theorem target_writeTasks {a : Nat} {v : List Byte} (h : ¬ (a ≤ x ∧ x < a + v.length)) :
    ∀ task ∈ writeTasks a v, task.target x = false := by
  intro task htask
  unfold writeTasks at htask
  split_ifs at htask
  · cases htask
  · rw [List.mem_singleton.1 htask]
    exact target_write.2 h

theorem target_eraseTasks {k n : Nat} (h : ¬ (k ≤ x / 64 ∧ x / 64 < k + n)) :
    ∀ task ∈ eraseTasks k n, task.target x = false := by
  intro task htask
  unfold eraseTasks at htask
  split_ifs at htask
  · cases htask
  · rw [List.mem_singleton.1 htask]
    exact target_eraseFrom.2 h

theorem target_restoreVector {k : Nat} (hsv : s.sv.length = vecLen) (h : x / 64 ≠ k) :
    ∀ task ∈ restoreVector k s, task.target x = false := by
  intro task htask
  unfold restoreVector at htask
  split_ifs at htask with hk
  · exact target_writeTasks (by rw [hsv, vecLen]; omega) task htask
  · cases htask

/-! ### The array -/

/-- R74: one primitive changes only latched addresses and the block under erase. -/
theorem taskStep_read {now : Task} (hlatch : x ∉ latchAddrs s) (hexposed : x ∉ exposedAddrs s)
    (h : taskStep now rest s = .next t) : t.mem.read x = s.mem.read x := by
  rcases taskStep_mem h with hmem | ⟨-, -, rfl⟩ | ⟨k, -, hb, rfl⟩
  · rw [hmem]
  · exact read_finishCommit (s := s.setTodo rest) hlatch
  · refine (read_eraseBlock s.mem k x).trans (if_neg fun hk => hexposed ?_)
    exact exposed_of_erase (hk ▸ hb)

/-- R131: a power failure changes only exposed addresses. -/
theorem powerFail_read (hx : x ∉ exposedAddrs s) : (powerFail s).mem.read x = s.mem.read x :=
  (read_drawCells _ x s.mem s.draws).1 hx

/-! ### The sequence -/

theorem useRead_pending {use : ReadUse} {a left : Nat} {got bytes : List Byte} (hbytes : bytes.length = use.size)
    (hnow : (Task.read a left got use).target x = false) (hrest : ∀ task ∈ rest, task.target x = false) :
    ∀ task ∈ (useRead use bytes rest s).todo, task.target x = false := by
  cases use with
  | vector limit =>
    obtain ⟨h1, hlimit⟩ := target_vector.1 hnow
    have hbackup : ¬ (backupAddr ≤ x ∧ x < backupAddr + bytes.length) := by
      rw [hbytes, ReadUse.size, backupAddr, vecLen]; omega
    exact List.forall_mem_cons.2 ⟨target_erase.2 h1, List.forall_mem_append.2 ⟨List.forall_mem_append.2
      ⟨target_writeTasks hbackup, target_eraseTasks (by omega)⟩, hrest⟩⟩
  | imageSize | chunk | signature => exact List.forall_mem_cons.2 ⟨rfl, hrest⟩

theorem readStep_todo {use : ReadUse} {a left : Nat} {got : List Byte} (h : s.SeqOk)
    (ht : s.todo = .read a left got use :: rest) (hnow : (Task.read a left got use).target x = false)
    (hrest : ∀ task ∈ rest, task.target x = false) :
    ∀ task ∈ (readStep a left got use rest s).todo, task.target x = false := by
  obtain ⟨hleft, hsize⟩ := read_ok h ht
  match left, hleft with
  | 1, _ => exact useRead_pending (by simpa using hsize) hnow hrest
  | more + 2, _ => exact List.forall_mem_cons.2 ⟨by cases use <;> exact hnow, hrest⟩

theorem writeStep_pending {a : Nat} {v : Byte} {later : List Byte} (h : s.SeqOk)
    (ht : s.todo = .write a (v :: later) :: rest) (hx : s.pending x = false) :
    (loaded a v (afterLoad a later ++ rest) s).pending x = false := by
  obtain ⟨hall, hlatch, -⟩ := pending_false_iff.1 hx
  rw [ht, List.forall_mem_cons, target_write, List.length_cons] at hall
  obtain ⟨hbusy, -, -⟩ := h.serves ht
  refine pending_false_iff.2 ⟨List.forall_mem_append.2 ⟨fun task htask => ?_, hall.2⟩, fun hmem => ?_, ?_⟩
  · rcases mem_afterLoad htask with rfl | htask
    · rfl
    · exact target_writeTasks (by omega) task htask
  · obtain ⟨k, hk, d, hd, rfl⟩ := mem_latchAddrs.1 hmem
    obtain rfl : a / 64 = k := Option.some.inj hk
    rcases mem_setCell.1 hd with rfl | ⟨hd, -⟩
    · exact hall.1 (by simp only; omega)
    · obtain ⟨-, hnil⟩ | ⟨hblk, -⟩ := h.latchBefore ht
      · rw [hnil] at hd; cases hd
      · exact hlatch (mem_latchAddrs.2 ⟨a / 64, hblk, d, hd, rfl⟩)
  · simp [exposedAddrs, loaded, hbusy]

theorem nextChunk_todo (hrest : ∀ task ∈ rest, task.target x = false) :
    ∀ task ∈ (nextChunk rest s).todo, task.target x = false := by
  unfold nextChunk
  split_ifs <;> exact List.forall_mem_cons.2 ⟨rfl, hrest⟩

theorem taskStep_pending {now : Task} (h : s.SeqOk) (hsv : s.sv.length = vecLen) (ht : s.todo = now :: rest)
    (hx : s.pending x = false) (hstep : taskStep now rest s = .next t) : t.pending x = false := by
  obtain ⟨hall, hlatch, hexposed⟩ := pending_false_iff.1 hx
  rw [ht, List.forall_mem_cons] at hall
  have hserves := h.serves ht
  cases now with
  | read a left got use =>
    cases hstep
    have hsame := readStep_controller a left got use rest s
    exact pending_false_of_idle ((congrArg State.latchBlk hsame :).trans hserves.2.2)
      ((congrArg State.nvmBusy hsame :).trans hserves.1) (readStep_todo h ht hall.1 hall.2)
  | write a bytes =>
    cases bytes with
    | nil => exact nomatch h.now_ok ht
    | cons v later =>
      obtain ⟨-, -, rfl⟩ := latchLoad_cases hstep
      exact writeStep_pending h ht hx
  | commit =>
    rw [taskStep, commitStep] at hstep
    split_ifs at hstep with hb <;> cases hstep
    · exact pending_false_of_idle (s := finishCommit (s.setTodo rest)) rfl rfl hall.2
    · exact pending_false_iff.2 ⟨(pending_false_iff.1 hx).1, hlatch, hlatch⟩
  | erase k =>
    obtain ⟨-, rfl⟩ | ⟨-, -, rfl⟩ := eraseStep_cases hstep
    · exact pending_false_of_idle (s := finishErase k (s.setTodo rest)) hserves.2.2 rfl hall.2
    · exact pending_false_iff.2 ⟨(pending_false_iff.1 hx).1, hlatch, fun hm => target_erase.1 hall.1 (mem_blockAddrs.1 hm)⟩
  | eraseFrom k n =>
    have hn : 0 < n := of_decide_eq_true (h.now_ok ht)
    obtain ⟨-, rfl⟩ := eraseFromStep_cases hn hstep
    have hrange := target_eraseFrom.1 hall.1
    refine pending_false_iff.2 ⟨List.forall_mem_cons.2 ⟨target_erase.2 (by omega), List.forall_mem_append.2
      ⟨List.forall_mem_append.2 ⟨target_restoreVector hsv (by omega), target_eraseTasks (by omega)⟩, hall.2⟩⟩, hlatch,
      fun hm => hrange ?_⟩
    have := mem_blockAddrs.1 hm
    omega
  | tx b =>
    cases hstep
    unfold txStep
    split
    · exact pending_false_of_idle (s := finishTx _ (s.setTodo rest)) hserves.2.2 hserves.1 hall.2
    · exact hx
  | hashInit => cases hstep; exact pending_false_of_idle (s := startHash rest s) hserves.2.2 hserves.1 (nextChunk_todo hall.2)
  | hashUpdate => cases hstep; exact pending_false_of_idle (s := updateHash rest s) hserves.2.2 hserves.1 (nextChunk_todo hall.2)
  | hashFinal =>
    cases hstep
    exact pending_false_of_idle (s := finishHash rest s) hserves.2.2 hserves.1 (List.forall_mem_cons.2 ⟨rfl, hall.2⟩)
  | verify sig => cases hstep; exact pending_false_of_idle (s := judgeImage sig rest s) hserves.2.2 hserves.1 hall.2
  | ret st =>
    cases hstep
    unfold returnStatus
    split_ifs <;> exact pending_false_of_idle hserves.2.2 hserves.1 hall.2
  | after r => cases hstep; cases r <;> exact pending_false_of_idle hserves.2.2 hserves.1 hall.2
  | enterReceive => cases hstep; exact pending_false_of_idle (s := enterReceive _) hserves.2.2 hserves.1 hall.2

/-! ### A whole step -/

theorem environmentMove_read (m : Move) (hx : x ∉ exposedAddrs s) :
    (environmentMove m s).mem.read x = s.mem.read x := by
  cases m with
  | offer b => obtain ⟨-, h⟩ | h := hostOffer_cases b s <;> exact congrArg (fun u => u.mem.read x) h
  | powerFail => exact powerFail_read hx
  | run | read => rfl

theorem environmentMove_pending (m : Move) (hx : s.pending x = false) : (environmentMove m s).pending x = false := by
  cases m with
  | offer b => obtain ⟨-, h⟩ | h := hostOffer_cases b s <;> rw [environmentMove, h] <;> exact hx
  | powerFail => exact pending_false_of_idle (s := powerFail s) rfl rfl nofun
  | run | read => exact hx

/-- R74, R131: a step changes only latched addresses and those of the cycle in progress. -/
theorem step_read (hlatch : x ∉ latchAddrs s) (hexposed : x ∉ exposedAddrs s) (h : step s = .next t) :
    t.mem.read x = s.mem.read x := by
  obtain ⟨-, hstep⟩ := step_cases h
  cases hstep with
  | environment m e _ _ ht => exact ht ▸ environmentMove_read (s := s.setEnv e) m hexposed
  | reset e _ _ hr => rw [(resetBlock_spares hr).mem]; rfl
  | task e _ _ now rest _ htask => exact taskStep_read (s := s.setEnv e) hlatch hexposed htask
  | fetch e _ _ _ hfetch => rw [(fetch_cases hfetch).spares.mem]; rfl

theorem step_pending (h : s.Inv) (ht : s.todo ≠ []) (hx : s.pending x = false) (hstep : step s = .next t) :
    t.pending x = false := by
  have hinv (e : List Move) : (s.setEnv e).Inv := h
  obtain ⟨-, hstep⟩ := step_cases hstep
  cases hstep with
  | environment m e _ _ ht => exact ht ▸ environmentMove_pending (s := s.setEnv e) m hx
  | reset e _ _ hr =>
    obtain ⟨-, rfl⟩ := resetBlock_next hr
    exact pending_false_of_idle (s := volatileReset (s.setEnv e)) rfl rfl nofun
  | task e _ _ now rest ht htask => exact taskStep_pending (s := s.setEnv e) (hinv e).seq (hinv e).regs.sv ht hx htask
  | fetch e _ _ hnil _ => exact absurd hnil ht

/-- Settles O29: a step changes the array at latched addresses and those of the cycle in progress, which are pending; and what
a primitive puts in the place of its operation targets no address that the operation did not. -/
theorem stepsStayOnTarget : Obligations.StepsStayOnTarget := by
  intro s t x h hstep hx
  obtain ⟨-, hlatch, hexposed⟩ := pending_false_iff.1 hx
  exact ⟨step_read hlatch hexposed hstep, fun ht => step_pending h ht hx hstep⟩

/-- R65: under `EXACT` neither the latch nor the cycle in progress reaches the bootloader's code. -/
theorem code_notMem (h : s.Inv) (hm : s.cfg.addrSumMode = .exact) (hx : s.cfg.btldOffset ≤ x) :
    x ∉ latchAddrs s ∧ x ∉ exposedAddrs s := by
  obtain ⟨-, hlatch, hbusy⟩ := staysBelow_iff.1 (h.seq.below hm)
  have hlatched : x ∉ latchAddrs s := fun hmem => Nat.not_lt.2 hx (hlatch x hmem)
  refine ⟨hlatched, fun hmem => ?_⟩
  rcases exposed_cases hmem with hmem | hb
  · exact hlatched hmem
  · have := hbusy _ hb
    omega

/-- Settles O57: a step changes only latched addresses and those of the cycle in progress, and both lie below the code. -/
theorem bootloaderCodeNeverWritten : Obligations.BootloaderCodeNeverWritten := by
  intro s t x h hm hstep hx
  obtain ⟨hlatch, hexposed⟩ := code_notMem h hm hx
  exact step_read hlatch hexposed hstep

/-! ### Cycles -/

/-- R30: a cycle in progress belongs to the Commit or the erase that stands first, in ERASE or in a command. -/
theorem cycle_stands (h : s.Inv) (hb : s.nvmBusy ≠ .idle) :
    ∃ now rest, s.todo = now :: rest ∧
      (now = .commit ∧ s.nvmBusy = .program ∨ ∃ k, now = .erase k ∧ s.nvmBusy = .erase k) ∧
      (s.ctl = .erase ∧ s.pos = .reply ∨ s.ctl = .receive ∧ s.pos = .dispatch) := by
  cases ht : s.todo with
  | nil => exact absurd ((frontOk_nil ht).1 h.seq.front).1 hb
  | cons now rest =>
    have hserves := h.seq.serves ht
    have hstands := h.seq.stands ht
    refine ⟨now, rest, rfl, ?_⟩
    cases now with
    | commit =>
      exact ⟨.inl ⟨rfl, hserves.1.resolve_left hb⟩, hstands.imp (fun h => ⟨h.1, h.2.1⟩) fun h => ⟨h.1, h.2.1⟩⟩
    | erase k => exact ⟨.inr ⟨k, rfl, hserves.1.resolve_left hb⟩, .inl ⟨hstands.1, hstands.2.1⟩⟩
    | _ => exact absurd hserves.1 hb

theorem exposedAddrs_idle (hb : s.nvmBusy = .idle) : exposedAddrs s = [] := by simp only [exposedAddrs, hb]

/-- R30, R72: with the array idle no step changes it. -/
theorem step_mem_of_idle (hb : s.nvmBusy = .idle) (h : step s = .next t) : t.mem = s.mem := by
  obtain ⟨-, hstep⟩ := step_cases h
  cases hstep with
  | environment m e _ _ ht =>
    subst ht
    cases m with
    | offer b => obtain ⟨-, h⟩ | h := hostOffer_cases b (s.setEnv e) <;> rw [environmentMove, h] <;> rfl
    | powerFail => rw [environmentMove, powerFail_mem, exposedAddrs_idle (s := s.setEnv e) hb]; rfl
    | run | read => rfl
  | reset e _ _ hr => exact (resetBlock_spares hr).mem
  | task e _ _ now rest _ htask =>
    rcases taskStep_mem htask with hmem | ⟨-, hb', -⟩ | ⟨k, -, hb', -⟩
    · exact hmem
    · exact absurd (hb.symm.trans hb') nofun
    · exact absurd (hb.symm.trans hb') nofun
  | fetch e _ _ _ hfetch => exact (fetch_cases hfetch).spares.mem

/-- Settles O58: an idle array is kept, and a cycle in progress belongs to the operation of ERASE or of a command. -/
theorem arrayChangesOnlyInEraseOrCommand : Obligations.ArrayChangesOnlyInEraseOrCommand := by
  intro s t h hstep
  by_cases hb : s.nvmBusy = .idle
  · exact .inl (step_mem_of_idle hb hstep)
  · obtain ⟨-, -, -, -, hplace⟩ := cycle_stands h hb
    exact .inr ⟨hb, hplace⟩

/-- R12: at the block's turn a step is the next primitive of the sequence in progress. -/
theorem step_of_turn {now : Task} {e : List Move} (hc : s.ctl ≠ .doneJump) (hp : s.powered = true)
    (hturn : s.turn = some e) (ht : s.todo = now :: rest) : step s = taskStep now rest (s.setEnv e) := by
  rw [step_eq, takeTurn_block hc hturn, blockTurn, if_pos (show (s.setEnv e).powered = true from hp)]
  simp only [State.setEnv_todo, ht, Turn.outcome]

theorem step_of_turn_none (hc : s.ctl ≠ .doneJump) (hturn : s.turn = none) : step s = .next (environmentTurn s) := by
  rw [step_eq, takeTurn, if_neg hc, hturn]
  rfl

/-- R12: where a cycle or a Tx is in progress and the block is between two steps, only a power failure comes before it. -/
theorem turn_of_held (hi : s.inStep = false) (hh : s.held = true) :
    s.turn = if s.env.head? = some .powerFail then none
      else some (if s.env.head? = some .run then s.env.tail else s.env) := by
  rw [State.turn, hi, hh]
  cases henv : s.env with
  | nil => rfl
  | cons m e => cases m <;> rfl

/-- R124, R127: the primitive of an operation whose cycle is in progress completes it. -/
theorem taskStep_completes {now : Task} (h : taskStep now rest s = .next t)
    (hnow : now = .commit ∧ s.nvmBusy = .program ∨ ∃ k, now = .erase k ∧ s.nvmBusy = .erase k) :
    t.env = s.env ∧ t.powered = s.powered ∧ t.nvmBusy = .idle ∧ t.todo = rest := by
  rcases hnow with ⟨rfl, hb⟩ | ⟨k, rfl, hb⟩
  · rw [taskStep, commitStep, if_pos hb] at h
    cases h
    exact ⟨rfl, rfl, rfl, rfl⟩
  · rw [taskStep, eraseStep, if_pos hb] at h
    cases h
    exact ⟨rfl, rfl, rfl, rfl⟩

theorem inStep_of_cycle {now : Task} (ht : s.todo = now :: rest)
    (hnow : now = .commit ∧ s.nvmBusy = .program ∨ ∃ k, now = .erase k ∧ s.nvmBusy = .erase k) : s.inStep = false := by
  rcases hnow with ⟨rfl, -⟩ | ⟨k, rfl, -⟩ <;> simp [State.inStep, ht]

/-- Settles O19: the first operation holds the cycle, so the block's turn completes it, and only a power failure comes
first. -/
theorem cycleHolds : Obligations.CycleHolds := by
  intro s t h hp hb hstep
  obtain ⟨now, rest, ht, hnow, -⟩ := cycle_stands h hb
  have hturn := turn_of_held (inStep_of_cycle ht hnow) (by simp [State.held, hb])
  obtain ⟨hc, -⟩ := step_cases hstep
  by_cases hfail : s.env.head? = some .powerFail
  · rw [if_pos hfail] at hturn ⊢
    obtain ⟨e, henv⟩ : ∃ e, s.env = .powerFail :: e := ⟨_, List.eq_cons_of_mem_head? hfail⟩
    obtain rfl := Host.Outcome.next.inj ((step_of_turn_none hc hturn).symm.trans hstep)
    simp [environmentTurn, henv, environmentMove]
  · rw [if_neg hfail] at hturn ⊢
    rw [step_of_turn hc hp hturn ht] at hstep
    obtain ⟨henv, hpow, hidle, htodo⟩ := taskStep_completes hstep hnow
    exact ⟨henv, hpow.trans hp, hidle, by rw [htodo, ht]; rfl⟩

end Sys2Proof.Machine
end

section
/-! What a host can write by a command (R64, R190, R261, R294): the array outside the command's own writes, whatever the
schedule holds. -/

namespace Sys2Proof.Machine

variable {s t u : State} {i : Instr} {p : List Byte} {n x : Nat}

/-- Right after the command only its own writes are pending. -/
theorem CommandIs.pending (hi : CommandIs i s t) (h : s.SeqOk) (ht : s.todo = [])
    (hx : commandStatus i s = .success → ∀ task ∈ commandWrites i s, task.target x = false) : t.pending x = false := by
  obtain ⟨hblk, -, hbusy, -⟩ := h.quiet_of_nil ht
  cases hi with
  | writes d hst _ h' =>
    subst h'
    exact pending_false_of_idle (s := (s.setDraws d).setTodo _) hblk hbusy
      (List.forall_mem_append.2 ⟨hx hst, List.forall_mem_singleton.2 rfl⟩)
  | resets _ h' => subst h'; exact pending_false_of_idle (s := resetDevice s) hblk hbusy (by simp [resetDevice, ht])
  | raises _ h' => subst h'; exact pending_false_of_idle (s := raiseStatus _ s) hblk hbusy (by simp [raiseStatus, ht])

/-- R74: an address that is not pending keeps its byte through the whole sequence. -/
theorem runSequence_read (h : s.Inv) (hx : s.pending x = false) (hrun : runSequence n s = .next t) :
    t.mem.read x = s.mem.read x := by
  refine (runSequence_keeps (P := fun v => v.Inv ∧ v.pending x = false ∧ v.mem.read x = s.mem.read x)
    (fun v w hv hne hstep => ?_) n s ⟨h, hx, rfl⟩ hrun).2.2
  obtain ⟨hinv, hpending, hread⟩ := hv
  obtain ⟨hkeep, hclear⟩ := stepsStayOnTarget v w x hinv hstep hpending
  exact ⟨stepKeepsInvariant v w hinv hstep, hclear hne, hkeep.trans hread⟩

section
variable (h : s.Inv) (ht : s.todo = []) (hc : s.ctl = .receive) (hp : s.pos = .dispatch)
include h ht hc hp

/-- R190: a command changes only what its writes target. -/
theorem command_read (hi : isCommand i = true) (hexec : exec i s = .next t) (hrun : runSequence n t = .next u)
    (hx : commandStatus i s = .success → ∀ task ∈ commandWrites i s, task.target x = false) :
    u.mem.read x = s.mem.read x := by
  have hcmd := exec_command_cases hi hexec
  rw [runSequence_read (command_inv h ht hc hp hcmd) (hcmd.pending h.seq ht hx) hrun, hcmd.spares.mem]

omit h hc hp in
/-- R188, R189: a command without writes leaves the array as it is. -/
theorem command_mem (hi : CommandIs i s t) (hno : commandStatus i s = .success → i = .x [])
    (hrun : runSequence n t = .next u) : u.mem = s.mem := by
  have hend : t.todo = [] := by
    cases hi with
    | writes d hst hne _ => exact absurd (hno hst) hne
    | resets _ h' => rw [h']; exact ht
    | raises _ h' => rw [h']; exact ht
  rw [runSequence_ended n hend] at hrun
  obtain rfl := Host.Outcome.next.inj hrun
  exact hi.spares.mem

theorem command_m_read (hexec : exec (.m p) s = .next t) (hrun : runSequence n t = .next u)
    (hx : ¬ (s.cfg.codeSizeOffset ≤ x ∧ x < s.cfg.codeSizeOffset + 3)) : u.mem.read x = s.mem.read x :=
  command_read h ht hc hp rfl hexec hrun fun _ => target_writeTasks (by rwa [payloadBytes_length])

theorem command_n_read (hexec : exec (.n p) s = .next t) (hrun : runSequence n t = .next u)
    (hx : ¬ (s.cfg.signatOffset ≤ x ∧ x < s.cfg.signatOffset + 64)) : u.mem.read x = s.mem.read x :=
  command_read h ht hc hp rfl hexec hrun fun _ => target_writeTasks (by rwa [payloadBytes_length])

/-- R186, R187: what a `D` that its checks accept may change. -/
theorem command_d_read (hexec : exec (.d p) s = .next t) (hrun : runSequence n t = .next u)
    (hzero : statusD p s = .success → dAddr p s = 0 → ¬ (4 ≤ x ∧ x < max 8 (dSize p s + 4)))
    (helse : statusD p s = .success → dAddr p s ≠ 0 → ¬ (dAddr p s ≤ x ∧ x < dAddr p s + dSize p s)) :
    u.mem.read x = s.mem.read x := by
  refine command_read h ht hc hp rfl hexec hrun fun hst => ?_
  simp only [commandWrites]
  split_ifs with h0
  · have hx := hzero hst h0
    refine List.forall_mem_append.2 ⟨target_writeTasks (by rw [payloadBytes_length]; omega), fun task htask => ?_⟩
    split_ifs at htask
    · exact target_writeTasks (by rw [payloadBytes_length]; omega) task htask
    · cases htask
  · exact target_writeTasks (by rw [payloadBytes_length]; exact helse hst h0)

end

/-- Settles O30: each command's writes target its own range, and no step of its sequence leaves the targets; X and UNKNOWN
have no writes, so their sequence is over at once. -/
theorem commandWritesConfined : Obligations.CommandWritesConfined := by
  intro s t u p op n x h ht hc hp hrun
  refine ⟨fun hexec => command_m_read h ht hc hp hexec hrun, fun hexec => command_n_read h ht hc hp hexec hrun,
    fun hexec h0 hx => command_d_read h ht hc hp hexec hrun (fun _ _ => hx) fun _ hne => absurd h0 hne,
    fun hexec h0 hx => command_d_read h ht hc hp hexec hrun (fun _ heq => absurd heq h0) fun _ _ => hx,
    fun hexec => command_mem ht (exec_command_cases rfl hexec) (fun hst => ?_) hrun,
    fun hexec => command_mem ht (exec_command_cases rfl hexec) nofun hrun⟩
  exact congrArg _ (of_not_not fun hne => absurd ((statusX_of_ne_nil hne).symm.trans hst) nofun)

theorem dSize_le (p : List Byte) (s : State) : dSize p s ≤ 255 := Nat.le_of_lt_succ (payloadByte p s 0).isLt

/-- Settles O31: an accepted `D` ends below SIGNAT_OFFSET under EXACT, and at address 0 below 259, which P1 puts there too. -/
theorem signatureRecordProtected : Obligations.SignatureRecordProtected := by
  intro s t u p n x h ht hc hp hm hp1 hexec hrun hlow _
  have hsize := dSize_le p s
  have hp1 : 259 ≤ s.cfg.signatOffset := hp1
  exact command_d_read h ht hc hp hexec hrun (fun _ _ => by omega) fun hst _ => by
    have := statusD_exact hm hst
    omega

/-- Settles O32: the fields of M and N lie above the vector; a `D` at 0 writes from 4 on, one elsewhere from its address on. -/
theorem resetVectorProtected : Obligations.ResetVectorProtected := by
  intro s t u op p n x h ht hc hp hm hexec hrun haddr hx
  obtain ⟨-, -, -, -, hb128, -⟩ := h.cfg
  have hsize : 4 ≤ s.cfg.codeSizeOffset := by simp only [Params.codeSizeOffset, sizeLen]; omega
  have hsig : 4 ≤ s.cfg.signatOffset := by simp only [Params.signatOffset, Params.codeSizeOffset, sigLen, sizeLen]; omega
  unfold decodeCommand at hexec
  split_ifs at hexec with hopM hopN hopD
  · exact command_m_read h ht hc hp hexec hrun (by omega)
  · exact command_n_read h ht hc hp hexec hrun (by omega)
  · refine command_d_read h ht hc hp hexec hrun (fun _ _ => by omega) fun hst h0 => ?_
    have hlen : 5 ≤ p.length := by
      by_contra hshort
      rw [statusD, if_pos (Nat.lt_of_not_le hshort)] at hst
      cases hst
    have := haddr hopD hlen
    omega
  · exact command_read h ht hc hp rfl hexec hrun fun _ => nofun
  · exact command_read h ht hc hp rfl hexec hrun fun _ => nofun

/-! ### A command that fails -/

/-- The writes of a command are in progress. -/
structure State.InCommand (s : State) : Prop where
  inv : s.Inv
  ctl : s.ctl = .receive
  pos : s.pos = .dispatch
  todo : s.todo ≠ []

/-- R261: a command's sequence has ended, and with power and another status than Success it has written nothing. -/
def State.Returned (m : Memory) (s : State) : Prop := s.todo = [] ∧ (s.powered = true → s.st ≠ .success → s.mem = m)

theorem endsWith_ne_nil {last : Task} {q : Task → Bool} {ts : List Task} (h : endsWith last q ts = true) : ts ≠ [] := by
  rintro rfl
  cases h

/-- R180: one primitive of a command's writes goes on with them, and the last one returns Success. -/
theorem State.InCommand.taskStep {now : Task} {rest : List Task} {m : Memory} (h : s.InCommand) (ht : s.todo = now :: rest)
    (hstep : taskStep now rest s = .next t) : t.InCommand ∨ t.Returned m := by
  have hinv := taskStep_inv h.inv ht hstep
  have hstands := h.inv.seq.stands ht
  have hrest : now.stores = true → rest ≠ [] := fun hnow => by
    have hlegal := h.inv.seq.todo
    rw [ht, h.ctl, h.pos] at hlegal
    rcases endsWith_cons.1 hlegal with ⟨rfl, -⟩ | ⟨-, hend⟩
    · cases hnow
    · exact endsWith_ne_nil hend
  cases now with
  | write a bytes =>
    cases bytes with
    | nil => exact nomatch h.inv.seq.now_ok ht
    | cons v later =>
      obtain ⟨-, -, rfl⟩ := latchLoad_cases hstep
      exact .inl ⟨hinv, h.ctl, h.pos, List.append_ne_nil_of_right_ne_nil _ (hrest rfl)⟩
  | commit =>
    rw [Machine.taskStep, commitStep] at hstep
    split_ifs at hstep <;> cases hstep
    · exact .inl ⟨hinv, h.ctl, h.pos, hrest rfl⟩
    · exact .inl ⟨hinv, h.ctl, h.pos, h.todo⟩
  | ret st =>
    cases hstep
    obtain ⟨-, -, rfl, rfl⟩ := hstands
    exact .inr ⟨rfl, fun _ hst => absurd rfl hst⟩
  | read | erase | eraseFrom | tx | hashInit | hashUpdate | hashFinal | verify | after | enterReceive =>
    simp [Task.Stands, h.ctl, h.pos] at hstands

theorem State.InCommand.step {m : Memory} (h : s.InCommand) (hstep : step s = .next t) :
    t.InCommand ∨ t.Returned m := by
  have hinv := stepKeepsInvariant s t h.inv hstep
  have hset (e : List Move) : (s.setEnv e).InCommand := ⟨h.inv, h.ctl, h.pos, h.todo⟩
  obtain ⟨-, hstep⟩ := step_cases hstep
  cases hstep with
  | environment move e _ _ ht =>
    subst ht
    cases move with
    | offer b =>
      obtain ⟨-, hs⟩ | hs := hostOffer_cases b (s.setEnv e) <;> rw [environmentMove, hs] at hinv ⊢ <;>
        exact .inl ⟨hinv, h.ctl, h.pos, h.todo⟩
    | powerFail => exact .inr ⟨rfl, nofun⟩
    | run | read => exact .inl ⟨hinv, h.ctl, h.pos, h.todo⟩
  | reset e _ _ hr =>
    obtain ⟨-, rfl⟩ := resetBlock_next hr
    exact .inr ⟨rfl, fun _ hst => absurd rfl hst⟩
  | task e _ _ now rest ht htask => exact (hset e).taskStep ht htask
  | fetch e _ _ ht _ => exact absurd ht h.todo

/-- Settles O33: a command whose checks fail has no writes; one whose writes run to completion returns Success, and what
cuts them short is a power failure. -/
theorem failedCommandWroteNothing : Obligations.FailedCommandWroteNothing := by
  intro s t u op p n h ht hc hp hexec hrun hend hpow hst
  have hcmd := exec_command_cases (isCommand_decodeCommand op p) hexec
  have hinv := command_inv h ht hc hp hcmd
  have hfirst : t.InCommand ∨ t.Returned s.mem := by
    cases hcmd with
    | writes d _ _ h' => subst h'; exact .inl ⟨hinv, hc, hp, List.append_ne_nil_of_right_ne_nil _ (List.cons_ne_nil _ _)⟩
    | resets _ h' => subst h'; exact .inr ⟨ht, fun _ _ => rfl⟩
    | raises _ h' => subst h'; exact .inr ⟨ht, fun _ _ => rfl⟩
  have hlast : u.InCommand ∨ u.Returned s.mem :=
    runSequence_keeps (P := fun v => v.InCommand ∨ v.Returned s.mem)
      (fun v w hv hne hstep => (hv.resolve_right fun hr => hne hr.1).step hstep) n t hfirst hrun
  exact (hlast.resolve_left fun hr => hr.todo hend).2 hpow hst

end Sys2Proof.Machine
end

section
/-! The reset vector through ERASE (R129): what each point of `EraseStage` says, what keeps it, and that one of the two
copies survives every step. -/

namespace Sys2Proof.Machine

variable {s t : State} {rest : List Task}

/-! ### The two copies -/

theorem bytes_eq_iff {m : Memory} {a : Nat} {v : List Byte} {n : Nat} (hv : v.length = n) :
    m.bytes a n = v ↔ ∀ i, i < n → m.read (a + i) = v.getD i 0#8 := by
  refine ⟨fun h i hi => by rw [← h, bytes_getD m a hi], fun h => ?_⟩
  refine List.ext_getElem ((bytes_length m a n).trans hv.symm) fun i hi hi' => ?_
  have := h i (hv ▸ hi')
  simpa [Memory.bytes, hi'] using this

theorem vectorAt0_iff (hv : s.cfg.vec0.length = vecLen) :
    s.VectorAt0 ↔ ∀ i, i < vecLen → s.mem.read i = s.cfg.vec0.getD i 0#8 := by
  refine (bytes_eq_iff hv).trans ?_
  simp only [Nat.zero_add]

theorem vectorIn64_iff (hv : s.cfg.vec0.length = vecLen) :
    s.VectorIn64 ↔ ∀ i, i < vecLen → s.mem.read (64 + i) = s.cfg.vec0.getD i 0#8 := bytes_eq_iff hv

/-- R129: the copy at 0 stays when block 0 is left alone. -/
theorem State.VectorAt0.keep (h : s.VectorAt0) (hcfg : t.cfg = s.cfg)
    (hread : ∀ x, x / 64 = 0 → t.mem.read x = s.mem.read x) : t.VectorAt0 := by
  refine (bytes_congr fun i hi => hread _ ?_).trans (hcfg ▸ h)
  rw [vecLen] at hi
  omega

/-- R129: the copy in the backup slot stays when block 1 is left alone. -/
theorem State.VectorIn64.keep (h : s.VectorIn64) (hcfg : t.cfg = s.cfg)
    (hread : ∀ x, x / 64 = 1 → t.mem.read x = s.mem.read x) : t.VectorIn64 := by
  refine (bytes_congr fun i hi => hread _ ?_).trans (hcfg ▸ h)
  rw [vecLen] at hi
  rw [backupAddr]
  omega

/-- R294: the CPU runs the bootloader when the vector is `vec0`. -/
theorem vectorIntact_iff : vectorIntact s = true ↔ s.VectorAt0 := by
  have hreads : (List.range 4).map s.mem.read = resetVector s.mem := by
    simp only [resetVector, Memory.bytes, Nat.zero_add]
    rfl
  rw [vectorIntact, decide_eq_true_eq, hreads]

/-! ### The stages, by the operation that stands first -/

/-- R128: the blocks below BTLD_OFFSET. -/
abbrev State.eraseBlocks (s : State) : Nat := s.cfg.btldOffset / 64

theorem stage_read {a left : Nat} {got : List Byte} {use : ReadUse} (ht : s.todo = .read a left got use :: rest) :
    s.EraseStage ↔ s.VectorAt0 ∧ got = s.cfg.vec0.take a := by
  simp only [State.EraseStage, ht]

/-- R129: block `k` is to get its copy of the vector, while the other copy stands; what comes after that. -/
def State.Copying (s : State) (k : Nat) (rest : List Task) : Prop :=
  k = 1 ∧ s.VectorAt0 ∧ rest = eraseTasks 0 s.eraseBlocks ∨ k = 0 ∧ s.VectorIn64 ∧ rest = eraseTasks 1 (s.eraseBlocks - 1)

theorem State.Copying.keep {k : Nat} (h : s.Copying k rest) (hcfg : t.cfg = s.cfg)
    (hread : ∀ x, x / 64 ≠ k → t.mem.read x = s.mem.read x) : t.Copying k rest := by
  rw [State.Copying, State.eraseBlocks, hcfg]
  rcases h with ⟨rfl, h0, hrest⟩ | ⟨rfl, h64, hrest⟩
  · exact .inl ⟨rfl, h0.keep hcfg fun x hx => hread x (by omega), hrest⟩
  · exact .inr ⟨rfl, h64.keep hcfg fun x hx => hread x (by omega), hrest⟩

theorem State.Copying.copy {k : Nat} (h : s.Copying k rest) : s.VectorAt0 ∨ s.VectorIn64 :=
  h.imp (fun h => h.2.1) fun h => h.2.1

theorem stage_erase_write {k a : Nat} {w : List Byte} (ht : s.todo = .erase k :: .write a w :: rest) :
    s.EraseStage ↔ w = s.cfg.vec0 ∧ s.sv = s.cfg.vec0 ∧ a = 64 * k ∧ s.Copying k rest := by
  simp only [State.EraseStage, ht, State.Copying]

theorem stage_erase {k : Nat} (ht : s.todo = .erase k :: rest) (hrest : ∀ a w more, rest ≠ .write a w :: more) :
    s.EraseStage ↔ 0 < k ∧ s.VectorAt0 ∧ rest = eraseTasks (k + 1) (s.eraseBlocks - (k + 1)) := by
  cases rest with
  | nil => simp only [State.EraseStage, ht]
  | cons now more =>
    cases now with
    | write a w => exact absurd rfl (hrest a w more)
    | _ => simp only [State.EraseStage, ht]

theorem stage_write {a : Nat} {w : List Byte} (ht : s.todo = .write a w :: rest) :
    s.EraseStage ↔ s.sv = s.cfg.vec0 ∧
      ∃ k i, i < vecLen ∧ w = s.cfg.vec0.drop i ∧ a = 64 * k + i ∧ s.Restoring k i ∧ s.Copying k rest := by
  simp only [State.EraseStage, ht, State.Copying]
  refine and_congr_right fun _ => ⟨?_, ?_⟩
  · rintro ⟨i, hi, hw, ⟨ha, hr, hrest⟩ | ⟨ha, hr, hrest⟩⟩
    · exact ⟨1, i, hi, hw, ha, hr, .inl ⟨rfl, hrest⟩⟩
    · exact ⟨0, i, hi, hw, by omega, hr, .inr ⟨rfl, hrest⟩⟩
  · rintro ⟨k, i, hi, hw, ha, hr, ⟨rfl, hrest⟩ | ⟨rfl, hrest⟩⟩
    · exact ⟨i, hi, hw, .inl ⟨ha, hr, hrest⟩⟩
    · exact ⟨i, hi, hw, .inr ⟨by omega, hr, hrest⟩⟩

theorem stage_commit (ht : s.todo = .commit :: rest) :
    s.EraseStage ↔ s.sv = s.cfg.vec0 ∧ ∃ k, s.Restoring k vecLen ∧ s.Copying k rest := by
  simp only [State.EraseStage, ht, State.Copying]
  refine and_congr_right fun _ => ⟨?_, ?_⟩
  · rintro (⟨hr, hrest⟩ | ⟨hr, hrest⟩)
    · exact ⟨1, hr, .inl ⟨rfl, hrest⟩⟩
    · exact ⟨0, hr, .inr ⟨rfl, hrest⟩⟩
  · rintro ⟨k, hr, ⟨rfl, hrest⟩ | ⟨rfl, hrest⟩⟩
    · exact .inl ⟨hr, hrest⟩
    · exact .inr ⟨hr, hrest⟩

theorem stage_eraseFrom {k m : Nat} (ht : s.todo = .eraseFrom k m :: rest) :
    s.EraseStage ↔ s.VectorAt0 ∧ k + m = s.eraseBlocks ∧ rest = [] ∧ (k = 0 → s.sv = s.cfg.vec0 ∧ s.VectorIn64) := by
  simp only [State.EraseStage, ht]

/-- R128: an operation that is not of ERASE_RANGE. -/
def Task.outsideErase : Task → Bool
  | .read _ _ _ _ => false
  | task => !task.stores

theorem stage_nil (ht : s.todo = []) : s.EraseStage ↔ s.VectorAt0 := by simp only [State.EraseStage, ht]

theorem stage_other {now : Task} (hnow : now.outsideErase = true) (ht : s.todo = now :: rest) :
    s.EraseStage ↔ s.VectorAt0 := by
  cases now with
  | read | write | commit | erase | eraseFrom => cases hnow
  | _ => simp only [State.EraseStage, ht]

/-- R128 step 3: what is left of the loop. -/
theorem stage_eraseTasks {k m : Nat} (ht : s.todo = eraseTasks k m) (h0 : s.VectorAt0)
    (hn : m ≠ 0 → k + m = s.eraseBlocks) (hk : k = 0 → s.sv = s.cfg.vec0 ∧ s.VectorIn64) : s.EraseStage := by
  unfold eraseTasks at ht
  split_ifs at ht
  · exact (stage_nil ht).2 h0
  · exact (stage_eraseFrom ht).2 ⟨h0, hn ‹_›, rfl, hk⟩

end Sys2Proof.Machine
end

section
/-! One primitive of ERASE goes from one stage to the next (R128, R129). -/

namespace Sys2Proof.Machine

variable {s t : State} {rest : List Task}

theorem take_getD_succ {l : List Byte} {a : Nat} (h : a < l.length) : l.take a ++ [l.getD a 0#8] = l.take (a + 1) := by
  rw [List.take_succ_eq_append_getElem h, List.getD_eq_getElem _ _ h]

/-- What the parameters say of ERASE_RANGE: the vector, the array and the blocks below BTLD_OFFSET. -/
structure State.EraseRange (s : State) : Prop where
  vec0 : s.cfg.vec0.length = vecLen
  blocks : 2 ≤ s.eraseBlocks
  flash : 128 ≤ s.cfg.flashSize

theorem State.Inv.eraseRange (h : s.Inv) : s.EraseRange := by
  obtain ⟨-, -, -, -, h128, hflash, -, hvec⟩ := h.cfg
  exact ⟨hvec, by unfold State.eraseBlocks; omega, by omega⟩

theorem State.EraseRange.writeTasks (hr : s.EraseRange) (a : Nat) :
    writeTasks a s.cfg.vec0 = [.write a s.cfg.vec0] := by
  have hvec := hr.vec0
  exact if_neg fun hnil => by rw [hnil] at hvec; cases hvec

/-- R128 step 1: each byte read is the vector's. -/
theorem readStep_stage {a left : Nat} {got : List Byte} {use : ReadUse} (h : s.Inv) (hc : s.ctl = .erase)
    (ht : s.todo = .read a left got use :: rest) (hs : s.EraseStage) : (readStep a left got use rest s).EraseStage := by
  have hr := h.eraseRange
  have hvec := hr.vec0
  have hflash := hr.flash
  obtain ⟨hleft, -⟩ := read_ok h.seq ht
  obtain ⟨h0, hgot⟩ := (stage_read ht).1 hs
  obtain ⟨rfl, ⟨-, -, rfl, hsum⟩ | ⟨hvb, -⟩⟩ := h.seq.stands ht
  swap
  · rw [hc] at hvb; cases hvb
  rw [vecLen] at hsum hvec
  have hread : got ++ [readByte s a] = s.cfg.vec0.take (a + 1) := by
    rw [readByte_inRange (by omega), (vectorAt0_iff hr.vec0).1 h0 a (by rw [vecLen]; omega), hgot,
      take_getD_succ (by omega)]
  match left, hleft with
  | 1, _ =>
    rw [readStep, afterByte_inRange (by omega), hread, List.take_of_length_le (by omega)]
    refine (stage_erase_write (rest := eraseTasks 0 s.eraseBlocks ++ []) ?_).2
      ⟨rfl, rfl, rfl, .inl ⟨rfl, h0, List.append_nil _⟩⟩
    exact congrArg (fun ts => Task.erase 1 :: (ts ++ _ ++ _)) (hr.writeTasks 64)
  | more + 2, _ =>
    rw [readStep, afterByte_inRange (by omega)]
    exact (stage_read (s := s.setTodo _) rfl).2 ⟨h0, hread⟩

/-- R127: the erase of a block, from one stage to the next. -/
theorem eraseStep_stage {k : Nat} (h : s.Inv) (ht : s.todo = .erase k :: rest) (hs : s.EraseStage)
    (hstep : eraseStep k rest s = .next t) : t.EraseStage := by
  have hseq := h.seq
  obtain ⟨-, rfl⟩ | ⟨-, -, rfl⟩ := eraseStep_cases hstep
  swap
  · exact hs
  have hblk : s.latchMap = [] := hseq.latchMap_nil (hseq.serves ht).2.2
  have herased : ∀ x, (s.mem.eraseBlock k).read x = if x / 64 = k then erasedByte else s.mem.read x :=
    read_eraseBlock s.mem k
  have hrestoring : ((finishErase k (s.setTodo rest))).Restoring k 0 := by
    refine ⟨hblk, nofun, fun i hi => (herased _).trans (if_pos ?_)⟩
    rw [vecLen] at hi
    omega
  by_cases hw : ∃ a w more, rest = .write a w :: more
  · obtain ⟨a, w, more, rfl⟩ := hw
    obtain ⟨rfl, hsv, rfl, hcopying⟩ := (stage_erase_write ht).1 hs
    exact (stage_write (s := finishErase k (s.setTodo _)) rfl).2 ⟨hsv, k, 0, by decide, rfl, rfl, hrestoring,
      hcopying.keep rfl fun x hx => (herased x).trans (if_neg hx)⟩
  · obtain ⟨hk, h0, hrest⟩ := (stage_erase ht fun a w more he => hw ⟨a, w, more, he⟩).1 hs
    exact stage_eraseTasks (s := finishErase k (s.setTodo rest)) hrest
      (h0.keep rfl fun x hx => (herased x).trans (if_neg (by omega))) (by show _ → _ = s.eraseBlocks; omega) nofun

/-- R122: the latch after the byte `n` of the vector has been loaded into it. -/
theorem State.Restoring.load {k n : Nat} {ts : List Task} (h : s.Restoring k n) (hn : n < vecLen) :
    (loaded (64 * k + n) (s.cfg.vec0.getD n 0#8) ts s).Restoring k (n + 1) := by
  obtain ⟨hmap, -, herased⟩ := h
  rw [vecLen] at hn
  have hoff : (64 * k + n) % 64 = n := by omega
  have hblk : (64 * k + n) / 64 = k := by omega
  refine ⟨?_, fun _ => congrArg some hblk, herased⟩
  show setCell ((64 * k + n) % 64) _ s.latchMap = _
  rw [hoff, setCell_above, hmap, List.range_succ, List.map_append]
  · rfl
  · rw [hmap]
    intro d hd
    obtain ⟨i, hi, rfl⟩ := List.mem_map.1 hd
    exact List.mem_range.1 hi

theorem afterLoad_vector {k n : Nat} {v : List Byte} (hv : v.length = vecLen) (hn : n < vecLen) :
    afterLoad (64 * k + n) (v.drop (n + 1)) =
      if n + 1 = vecLen then [.commit] else [.write (64 * k + (n + 1)) (v.drop (n + 1))] := by
  split_ifs with hlast
  · rw [afterLoad_commit (.inr (List.drop_eq_nil_of_le (by omega))), List.drop_eq_nil_of_le (by omega)]
    rfl
  · have hne : v.drop (n + 1) ≠ [] := fun h => by
      rw [List.drop_eq_nil_iff] at h
      omega
    obtain ⟨w, more, hw⟩ := List.exists_cons_of_ne_nil hne
    rw [vecLen] at hn
    rw [hw, afterLoad_write (by omega)]
    rfl

/-- R122: a byte of the vector enters the latch, for either copy. -/
theorem writeStep_stage {a : Nat} {bytes : List Byte} (h : s.Inv) (ht : s.todo = .write a bytes :: rest)
    (hs : s.EraseStage) (hstep : writeStep a bytes rest s = .next t) : t.EraseStage := by
  have hvec := h.eraseRange.vec0
  obtain ⟨hsv, k, n, hn, rfl, rfl, hrestoring, hcopying⟩ := (stage_write ht).1 hs
  have hsplit : s.cfg.vec0.drop n = s.cfg.vec0.getD n 0#8 :: s.cfg.vec0.drop (n + 1) := by
    rw [List.drop_eq_getElem_cons (by omega), List.getD_eq_getElem _ _ (by omega)]
  rw [hsplit] at hstep
  obtain ⟨-, -, rfl⟩ := latchLoad_cases hstep
  have hloaded := hrestoring.load (ts := afterLoad (64 * k + n) (s.cfg.vec0.drop (n + 1)) ++ rest) hn
  rw [afterLoad_vector hvec hn] at hloaded ⊢
  by_cases hlast : n + 1 = vecLen
  · rw [if_pos hlast] at hloaded ⊢
    exact (stage_commit rfl).2 ⟨hsv, k, hlast ▸ hloaded, hcopying⟩
  · rw [if_neg hlast] at hloaded ⊢
    exact (stage_write rfl).2 ⟨hsv, k, n + 1, by omega, rfl, rfl, hloaded, hcopying⟩

/-- R124: a Commit of the vector's bytes onto erased ones has put the vector there, and changed no other block. -/
theorem State.Restoring.commit {k : Nat} (h : s.Restoring k vecLen) :
    (∀ i, i < vecLen → (finishCommit s).mem.read (64 * k + i) = s.cfg.vec0.getD i 0#8) ∧
      ∀ x, x / 64 ≠ k → (finishCommit s).mem.read x = s.mem.read x := by
  obtain ⟨hmap, hblk, herased⟩ := h
  have hblk := hblk (by decide)
  have hsorted : cellsSorted s.latchMap = true := by rw [hmap]; rfl
  rw [finishCommit_eq hblk]
  refine ⟨fun i hi => ?_, fun x hx => read_programCells_of_notMem _ _ _ fun d hd => ?_⟩
  · have hcell : (i, s.cfg.vec0.getD i 0#8) ∈ s.latchMap := by
      rw [hmap]
      exact List.mem_map.2 ⟨i, List.mem_range.2 hi, rfl⟩
    refine (read_programCells_of_mem s.cfg k hsorted hcell s.mem).trans ?_
    rw [herased i hi, programByte_erased]
  · rw [hmap] at hd
    obtain ⟨i, hi, rfl⟩ := List.mem_map.1 hd
    have := List.mem_range.1 hi
    rw [vecLen] at this
    show x ≠ 64 * k + i
    omega

/-- R124: the Commit of either copy. -/
theorem commitStep_stage (h : s.Inv) (ht : s.todo = .commit :: rest) (hs : s.EraseStage)
    (hstep : commitStep rest s = .next t) : t.EraseStage := by
  obtain ⟨hvec, hblocks, -⟩ := h.eraseRange
  obtain ⟨hsv, k, hrestoring, hcopying⟩ := (stage_commit ht).1 hs
  unfold commitStep at hstep
  split_ifs at hstep <;> cases hstep
  swap
  · exact hs
  have hthere : (s.setTodo rest).Restoring k vecLen := hrestoring
  obtain ⟨hcopy, hother⟩ := hthere.commit
  rcases hcopying with ⟨rfl, h0, hrest⟩ | ⟨rfl, h64, hrest⟩
  · have h64 : (finishCommit (s.setTodo rest)).VectorIn64 :=
      (vectorIn64_iff (s := finishCommit (s.setTodo rest)) hvec).2 hcopy
    exact stage_eraseTasks hrest (h0.keep rfl fun x hx => hother x (by omega)) (fun _ => Nat.zero_add _) fun _ => ⟨hsv, h64⟩
  · have h0 : (finishCommit (s.setTodo rest)).VectorAt0 :=
      (vectorAt0_iff (s := finishCommit (s.setTodo rest)) hvec).2 fun i hi => by
        have := hcopy i hi
        rwa [Nat.mul_zero, Nat.zero_add] at this
    exact stage_eraseTasks hrest h0 (fun _ => by show _ = s.eraseBlocks; omega) nofun

/-- R128 step 3: the loop starts the erase of its next block; block 0 is to get the vector back. -/
theorem eraseFromStep_stage {k n : Nat} (h : s.Inv) (ht : s.todo = .eraseFrom k n :: rest) (hs : s.EraseStage)
    (hstep : eraseFromStep k n rest s = .next t) : t.EraseStage := by
  have hn : 0 < n := of_decide_eq_true (h.seq.now_ok ht)
  obtain ⟨h0, hsum, rfl, hfirst⟩ := (stage_eraseFrom ht).1 hs
  obtain ⟨-, rfl⟩ := eraseFromStep_cases hn hstep
  rcases Nat.eq_zero_or_pos k with rfl | hk
  · obtain ⟨hsv, h64⟩ := hfirst rfl
    refine (stage_erase_write (rest := eraseTasks 1 (s.eraseBlocks - 1)) ?_).2 ⟨rfl, hsv, rfl, .inr ⟨rfl, h64, rfl⟩⟩
    show Task.erase 0 :: (restoreVector 0 s ++ eraseTasks 1 (n - 1) ++ []) = _
    rw [restoreVector, if_pos rfl, hsv, h.eraseRange.writeTasks, List.append_nil, ← hsum, Nat.zero_add]
    rfl
  · have htodo : restoreVector k s ++ eraseTasks (k + 1) (n - 1) ++ [] = eraseTasks (k + 1) (s.eraseBlocks - (k + 1)) := by
      rw [restoreVector, if_neg hk.ne', List.append_nil, List.nil_append, ← hsum]
      congr 1
      omega
    refine (stage_erase (s := (s.setTodo _).setBusy _) rfl fun a w more he => ?_).2 ⟨hk, h0, htodo⟩
    rw [htodo] at he
    unfold eraseTasks at he
    split_ifs at he
    cases he

/-- R235: the bytes of the handshake response leave the vector at 0. -/
theorem txStep_stage {b : Byte} (h : s.Inv) (hc : s.ctl = .erase) (ht : s.todo = .tx b :: rest) (hs : s.EraseStage) :
    (txStep b rest s).EraseStage := by
  have h0 : s.VectorAt0 := (stage_other rfl ht).1 hs
  unfold txStep
  split
  · obtain ⟨-, -, hend⟩ | ⟨hvb, -⟩ := h.seq.stands ht
    · cases rest with
      | nil => cases hend
      | cons now more =>
        rcases endsWith_cons.1 hend with ⟨rfl, -⟩ | ⟨hsends, -⟩
        · exact (stage_other (s := finishTx _ (s.setTodo _)) rfl rfl).2 h0
        · cases now with
          | tx c => exact (stage_other (s := finishTx _ (s.setTodo _)) rfl rfl).2 h0
          | _ => cases hsends
    · rw [hc] at hvb
      simp at hvb
  · exact (stage_other (s := startTx b s) rfl ht).2 h0

/-- R128, R129, R235: one primitive in ERASE leads to a stage of ERASE, or to RECEIVE with the vector at 0. -/
theorem taskStep_stage {now : Task} (h : s.Inv) (hc : s.ctl = .erase) (ht : s.todo = now :: rest) (hs : s.EraseStage)
    (hstep : taskStep now rest s = .next t) : t.EraseStage ∨ t.ctl = .receive ∧ t.VectorAt0 := by
  cases now with
  | read a left got use => cases hstep; exact .inl (readStep_stage h hc ht hs)
  | write a bytes => exact .inl (writeStep_stage h ht hs hstep)
  | commit => exact .inl (commitStep_stage h ht hs hstep)
  | erase k => exact .inl (eraseStep_stage h ht hs hstep)
  | eraseFrom k n => exact .inl (eraseFromStep_stage h ht hs hstep)
  | tx b => cases hstep; exact .inl (txStep_stage h hc ht hs)
  | enterReceive =>
    cases hstep
    have h0 : s.VectorAt0 := (stage_other rfl ht).1 hs
    exact .inr ⟨rfl, h0⟩
  | hashInit | hashUpdate | hashFinal | verify | ret | after =>
    have hstands := h.seq.stands ht
    simp [Task.Stands, hc] at hstands

/-! ### A power failure -/

/-- R129, R131: one copy of the vector stands in a block that a power failure now would leave alone. -/
def State.CopySafe (s : State) : Prop :=
  s.VectorAt0 ∧ (∀ x ∈ exposedAddrs s, x / 64 ≠ 0) ∨ s.VectorIn64 ∧ ∀ x ∈ exposedAddrs s, x / 64 ≠ 1

theorem State.CopySafe.of_idle (hb : s.nvmBusy = .idle) (h : s.VectorAt0 ∨ s.VectorIn64) : s.CopySafe := by
  have hnone := exposedAddrs_idle hb
  exact h.imp (fun h => ⟨h, by simp [hnone]⟩) fun h => ⟨h, by simp [hnone]⟩

theorem State.Copying.safe {k : Nat} (h : s.Copying k rest) (hk : ∀ x ∈ exposedAddrs s, x / 64 = k) : s.CopySafe := by
  rcases h with ⟨rfl, h0, -⟩ | ⟨rfl, h64, -⟩
  · exact .inl ⟨h0, fun x hx => by rw [hk x hx]; decide⟩
  · exact .inr ⟨h64, fun x hx => by rw [hk x hx]; decide⟩

/-- R131: an erase exposes its own block. -/
theorem exposed_erase {k : Nat} (h : s.Inv) (ht : s.todo = .erase k :: rest) : ∀ x ∈ exposedAddrs s, x / 64 = k := by
  intro x hx
  obtain ⟨hb | hb, -⟩ := h.seq.serves ht
  · rw [exposedAddrs_idle hb] at hx
    cases hx
  · rw [exposedAddrs, hb] at hx
    exact mem_blockAddrs.1 hx

/-- R131: a Commit of the vector exposes the first bytes of its block. -/
theorem State.Restoring.exposed {k : Nat} (h : s.Restoring k vecLen) (hb : s.nvmBusy = .idle ∨ s.nvmBusy = .program) :
    ∀ x ∈ exposedAddrs s, x / 64 = k := by
  obtain ⟨hmap, hblk, -⟩ := h
  intro x hx
  rcases hb with hb | hb
  · rw [exposedAddrs_idle hb] at hx
    cases hx
  · rw [exposedAddrs, hb] at hx
    obtain ⟨j, hj, d, hd, rfl⟩ := mem_latchAddrs.1 hx
    obtain rfl := Option.some.inj ((hblk (by decide)).symm.trans hj)
    rw [hmap] at hd
    obtain ⟨i, hi, rfl⟩ := List.mem_map.1 hd
    have := List.mem_range.1 hi
    rw [vecLen] at this
    show (64 * k + i) / 64 = k
    omega

/-- R129: at every stage of ERASE one copy is safe from a power failure. -/
theorem State.EraseStage.safe (hs : s.EraseStage) (h : s.Inv) : s.CopySafe := by
  cases ht : s.todo with
  | nil => exact .of_idle (h.seq.quiet_of_nil ht).2.2.1 (.inl ((stage_nil ht).1 hs))
  | cons now rest =>
    have hserves := h.seq.serves ht
    cases now with
    | read a left got use => exact .of_idle hserves.1 (.inl ((stage_read ht).1 hs).1)
    | write a w =>
      obtain ⟨-, k, i, -, -, -, -, hcopying⟩ := (stage_write ht).1 hs
      exact .of_idle hserves.1 hcopying.copy
    | commit =>
      obtain ⟨-, k, hrestoring, hcopying⟩ := (stage_commit ht).1 hs
      exact hcopying.safe (hrestoring.exposed hserves.1)
    | erase k =>
      by_cases hw : ∃ a w more, rest = .write a w :: more
      · obtain ⟨a, w, more, rfl⟩ := hw
        obtain ⟨-, -, -, hcopying⟩ := (stage_erase_write ht).1 hs
        exact hcopying.safe (exposed_erase h ht)
      · obtain ⟨hk, h0, -⟩ := (stage_erase ht fun a w more he => hw ⟨a, w, more, he⟩).1 hs
        exact .inl ⟨h0, fun x hx => by rw [exposed_erase h ht x hx]; omega⟩
    | eraseFrom k n => exact .of_idle hserves.1 (.inl ((stage_eraseFrom ht).1 hs).1)
    | _ => exact .of_idle hserves.1 (.inl ((stage_other rfl ht).1 hs))

theorem State.CopySafe.powerFail (h : s.CopySafe) : (powerFail s).VectorAt0 ∨ (powerFail s).VectorIn64 := by
  have hread {k : Nat} (hk : ∀ x ∈ exposedAddrs s, x / 64 ≠ k) (x : Nat) (hx : x / 64 = k) :
      (Machine.powerFail s).mem.read x = s.mem.read x := powerFail_read fun hmem => hk x hmem hx
  exact h.imp (fun ⟨h0, hk⟩ => h0.keep rfl (hread hk)) fun ⟨h64, hk⟩ => h64.keep rfl (hread hk)

theorem State.CopySafe.copy (h : s.CopySafe) : s.VectorAt0 ∨ s.VectorIn64 := h.imp And.left And.left

end Sys2Proof.Machine
end

section
/-! The reset vector over a whole step (R129, R294). -/

namespace Sys2Proof.Machine

variable {s t : State} {rest : List Task}

/-! ### The transitions of the control state -/

/-- R22: a primitive stays in its control state, enters RECEIVE from ERASE, or ends a response. -/
theorem taskStep_ctl {now : Task} (hstep : taskStep now rest s = .next t) :
    t.ctl = s.ctl ∨ now = .enterReceive ∧ t.ctl = .receive ∨ ∃ r, now = .after r ∧
      (r = .ack ∧ t.ctl = .receive ∨ r = .sigValid ∧ t.ctl = .doneJump ∨ r ≠ .ack ∧ r ≠ .sigValid ∧ t.ctl = .doneReset) := by
  cases now with
  | read a left got use => cases hstep; exact .inl (congrArg State.ctl (readStep_controller a left got use rest s) :)
  | write a bytes =>
    cases bytes with
    | nil => cases hstep; exact .inl rfl
    | cons v later => obtain ⟨-, -, rfl⟩ := latchLoad_cases hstep; exact .inl rfl
  | commit =>
    rw [taskStep, commitStep] at hstep
    split_ifs at hstep <;> cases hstep <;> exact .inl rfl
  | erase k => obtain ⟨-, rfl⟩ | ⟨-, -, rfl⟩ := eraseStep_cases hstep <;> exact .inl rfl
  | eraseFrom k n =>
    rcases Nat.eq_zero_or_pos n with rfl | hn
    · cases hstep; exact .inl rfl
    · obtain ⟨-, rfl⟩ := eraseFromStep_cases hn hstep; exact .inl rfl
  | tx b => cases hstep; unfold txStep; split <;> exact .inl rfl
  | ret st => cases hstep; unfold returnStatus; split_ifs <;> exact .inl rfl
  | after r =>
    cases hstep
    refine .inr (.inr ⟨r, rfl, ?_⟩)
    cases r with
    | ack => exact .inl ⟨rfl, rfl⟩
    | sigValid => exact .inr (.inl ⟨rfl, rfl⟩)
    | invalid | denied | sigInvalid => exact .inr (.inr ⟨nofun, nofun, rfl⟩)
  | enterReceive => cases hstep; exact .inr (.inl ⟨rfl, rfl⟩)
  | hashInit | hashUpdate | hashFinal | verify => cases hstep; exact .inl rfl

theorem transitionOk_self {c : Ctl} (h : c ≠ .doneJump) : transitionOk c c = true := by
  cases c with
  | doneJump => exact absurd rfl h
  | _ => rfl

/-- R231: a primitive makes a transition of the state table. -/
theorem taskStep_transition {now : Task} (hpos : legalPos s.ctl s.pos = true)
    (htodo : legalTodo s.cfg s.ctl s.pos (now :: rest) = true) (hc : s.ctl ≠ .doneJump)
    (hstep : taskStep now rest s = .next t) : transitionOk s.ctl t.ctl = true := by
  have hstands := legalTodo_stands htodo
  obtain hsame | ⟨rfl, hrec⟩ | ⟨r, rfl, hr⟩ := taskStep_ctl hstep
  · rw [hsame]
    exact transitionOk_self hc
  · rw [hstands.1, hrec]
    rfl
  · obtain ⟨hs | hs, hp, -⟩ := hstands <;> rw [hs, hp] at hpos <;> rw [hs]
    · obtain ⟨rfl, ht⟩ | ⟨rfl, -⟩ | ⟨-, -, ht⟩ := hr
      · rw [ht]; rfl
      · cases hpos
      · rw [ht]; rfl
    · obtain ⟨rfl, -⟩ | ⟨rfl, ht⟩ | ⟨-, -, ht⟩ := hr
      · cases hpos
      · rw [ht]; rfl
      · rw [ht]; rfl

theorem command_ctl {i : Instr} (h : CommandIs i s t) : t.ctl = s.ctl ∨ t.ctl = .doneReset := by
  cases h with
  | writes _ _ _ h => exact .inl (h ▸ rfl)
  | resets _ h => exact .inr (h ▸ rfl)
  | raises _ h => exact .inl (h ▸ rfl)

theorem onByte_ctl (b : Byte) (s : State) : (onByte b s).ctl = s.ctl := by
  obtain ⟨-, h⟩ | ⟨_, _, _, h, -, -⟩ := onByte_cases b s <;> rw [h] <;> rfl

theorem handshakeStep_ctl (s : State) :
    (handshakeStep s).ctl = s.ctl ∨ (handshakeStep s).ctl = .verifyAndBoot ∨ (handshakeStep s).ctl = .erase := by
  obtain ⟨-, h⟩ | ⟨-, -, h⟩ | ⟨b, q, -, -, -, h⟩ := handshakeStep_cases s <;> rw [h]
  · exact .inr (.inl rfl)
  · exact .inl rfl
  · obtain ⟨-, h⟩ | ⟨-, h⟩ := matchByte_cases b ((s.setHandshake s.hsMatched (s.hsBudget - 1)).setRx true q) <;> rw [h]
    · exact .inr (.inr rfl)
    · exact .inl rfl

/-- R231: what comes between two sequences makes a transition of the state table. -/
theorem FetchIs.transition (hf : FetchIs s t) : transitionOk s.ctl t.ctl = true := by
  cases hf with
  | entry hc _ h => rw [h]; exact hc ▸ rfl
  | poll hc _ h =>
    rw [h]
    obtain h | h | h := handshakeStep_ctl s <;> rw [h, hc] <;> rfl
  | erase hc _ h => rw [h]; exact hc ▸ rfl
  | reply hc _ h => rw [h]; exact hc ▸ rfl
  | command hc _ h => obtain h | h := command_ctl h <;> rw [h, hc] <;> rfl
  | respond r hc _ h =>
    have hsame : t.ctl = s.ctl := by rw [h]; cases r <;> rfl
    rw [hsame]
    obtain hc | hc := hc <;> rw [hc] <;> rfl
  | receive b q hc _ _ _ h => rw [h, onByte_ctl]; exact hc ▸ rfl
  | silent hc h => rw [h, hc]; rfl
  | verify hc _ h => rw [h]; exact hc ▸ rfl
  | reset hc h =>
    obtain ⟨-, rfl⟩ := resetBlock_next h
    rw [hc]
    rfl

theorem environmentMove_ctl (m : Move) (s : State) : (environmentMove m s).ctl = s.ctl := by
  cases m with
  | offer b => obtain ⟨-, h⟩ | h := hostOffer_cases b s <;> exact (congrArg State.ctl h :)
  | run | read | powerFail => rfl

/-- Settles O50: the environment keeps the control state; the transitions of the block's own steps are in the table. -/
theorem controlTransitions : Obligations.ControlTransitions := by
  intro s t hpos htodo hp _ hstep
  obtain ⟨hc, hstep⟩ := step_cases hstep
  cases hstep with
  | environment m e _ _ ht =>
    rw [ht, environmentMove_ctl]
    exact transitionOk_self hc
  | reset e _ hoff _ => exact absurd (hp.symm.trans hoff) nofun
  | task e _ _ now rest ht htask =>
    exact taskStep_transition (s := s.setEnv e) hpos (ht ▸ htodo) hc htask
  | fetch e _ _ _ hfetch => exact (fetch_cases hfetch).transition

/-! ### The vector -/

/-- Outside HANDSHAKE_WAIT and ERASE nothing is said of the vector. -/
theorem vectorKept_of_ctl (hw : s.ctl ≠ .handshakeWait) (he : s.ctl ≠ .erase) : s.VectorKept :=
  fun _ => ⟨fun h => absurd h hw, fun h => absurd h he⟩

/-- The vector at 0 with no sequence in progress. -/
theorem vectorKept_of_nil (ht : s.todo = []) (h0 : s.VectorAt0) : s.VectorKept :=
  fun _ => ⟨fun _ => h0, fun _ => (stage_nil ht).2 h0⟩

/-- R22: no primitive leads to HANDSHAKE_WAIT, nor to ERASE from elsewhere. -/
theorem taskStep_ctl_ne {now : Task} (hw : s.ctl ≠ .handshakeWait) (hstep : taskStep now rest s = .next t) :
    t.ctl ≠ .handshakeWait ∧ (s.ctl ≠ .erase → t.ctl ≠ .erase) := by
  obtain hc | ⟨-, hc⟩ | ⟨r, -, ⟨-, hc⟩ | ⟨-, hc⟩ | ⟨-, -, hc⟩⟩ := taskStep_ctl hstep <;> rw [hc]
  · exact ⟨hw, id⟩
  all_goals exact ⟨nofun, nofun⟩

/-- R22: no sequence is in progress in HANDSHAKE_WAIT. -/
theorem ctl_of_todo {now : Task} (h : s.SeqOk) (ht : s.todo = now :: rest) : s.ctl ≠ .handshakeWait := by
  have hlegal := h.todo
  rw [ht] at hlegal
  rcases legalTodo_cons hlegal with ⟨hc, -⟩ | ⟨hc, -⟩ | ⟨hc | hc, -⟩ | ⟨hc, -⟩ <;> rw [hc] <;> nofun

/-- R129: a primitive keeps the vector, and in ERASE a copy of it. -/
theorem taskStep_vector {now : Task} (h : s.Inv) (hp : s.powered = true) (hv : s.VectorKept) (ht : s.todo = now :: rest)
    (hstep : taskStep now rest s = .next t) : t.VectorKept ∧ (s.ctl = .erase → t.VectorAt0 ∨ t.VectorIn64) := by
  obtain ⟨hwait, helse⟩ := taskStep_ctl_ne (ctl_of_todo h.seq ht) hstep
  by_cases hc : s.ctl = .erase
  · rcases taskStep_stage h hc ht ((hv hp).2 hc) hstep with hs | ⟨hrec, h0⟩
    · exact ⟨fun _ => ⟨fun hw => absurd hw hwait, fun _ => hs⟩, fun _ => (hs.safe (taskStep_inv h ht hstep)).copy⟩
    · exact ⟨vectorKept_of_ctl hwait (by rw [hrec]; nofun), fun _ => .inl h0⟩
  · exact ⟨vectorKept_of_ctl hwait (helse hc), fun he => absurd he hc⟩

/-- R294: what starts a boot has found the vector at 0. -/
theorem resetBlock_vector (h : resetBlock s = .next t) : t.VectorKept := by
  obtain ⟨hintact, rfl⟩ := resetBlock_next h
  exact vectorKept_of_nil (s := volatileReset s) rfl (vectorIntact_iff.1 hintact)

theorem handshakeStep_todo (s : State) : (handshakeStep s).todo = s.todo := by
  obtain ⟨-, h⟩ | ⟨-, -, h⟩ | ⟨b, q, -, -, -, h⟩ := handshakeStep_cases s <;> rw [h]
  · rfl
  · rfl
  · obtain ⟨-, h⟩ | ⟨-, h⟩ := matchByte_cases b ((s.setHandshake s.hsMatched (s.hsBudget - 1)).setRx true q) <;> rw [h] <;> rfl

theorem vectorKept_of_transition (hc : s.ctl = .receive ∨ s.ctl = .verifyAndBoot)
    (htrans : transitionOk s.ctl t.ctl = true) : t.VectorKept := by
  refine vectorKept_of_ctl (fun h => ?_) fun h => ?_ <;> rw [h] at htrans <;> obtain hc | hc := hc <;> rw [hc] at htrans <;>
    cases htrans

/-- R129: what comes between two sequences keeps the vector where it is. -/
theorem FetchIs.vector (hf : FetchIs s t) (hp : s.powered = true) (hv : s.VectorKept) (ht : s.todo = []) :
    t.VectorKept ∧ (s.ctl = .erase → t.VectorAt0) := by
  obtain ⟨hwait, herase⟩ := hv hp
  have hsame := hf.spares
  have htrans := hf.transition
  have hkeep (h0 : s.VectorAt0) : t.VectorAt0 := h0.keep hsame.cfg fun x _ => by rw [hsame.mem]
  refine ⟨?_, fun hc => hkeep ((stage_nil ht).1 (herase hc))⟩
  cases hf with
  | entry hc _ h => exact vectorKept_of_nil (h ▸ ht) (hkeep (hwait hc))
  | poll hc _ h => exact vectorKept_of_nil (by rw [h, handshakeStep_todo, ht]) (hkeep (hwait hc))
  | erase hc _ h =>
    have h0 := hkeep ((stage_nil ht).1 (herase hc))
    subst h
    exact fun _ => ⟨fun _ => h0, fun _ => (stage_read (s := startEraseState s) rfl).2 ⟨h0, rfl⟩⟩
  | reply hc _ h =>
    have h0 := hkeep ((stage_nil ht).1 (herase hc))
    subst h
    exact fun _ => ⟨fun _ => h0, fun _ => (stage_other (s := s.setTodo _) rfl rfl).2 h0⟩
  | silent _ h => exact h ▸ hv
  | reset _ h => exact resetBlock_vector h
  | command hc _ _ => exact vectorKept_of_transition (.inl hc) htrans
  | respond r hc _ _ => exact vectorKept_of_transition hc htrans
  | receive b q hc _ _ _ _ => exact vectorKept_of_transition (.inl hc) htrans
  | verify hc _ _ => exact vectorKept_of_transition (.inr hc) htrans

/-- Settles O17: the environment leaves the vector and its copies, but for a power failure, which spares one of them; each
primitive of ERASE goes on to the next stage; everything else leaves the array. -/
theorem powerFailureLeavesVectorCopy : Obligations.PowerFailureLeavesVectorCopy := by
  intro s t h hv hstep
  have hinv (e : List Move) : (s.setEnv e).Inv := h
  have hsafe (hp : s.powered = true) (hc : s.ctl = .erase) : s.CopySafe := ((hv hp).2 hc).safe h
  obtain ⟨-, hstep⟩ := step_cases hstep
  cases hstep with
  | environment m e _ _ ht =>
    subst ht
    cases m with
    | offer b =>
      obtain ⟨-, hs⟩ | hs := hostOffer_cases b (s.setEnv e) <;> rw [environmentMove, hs] <;>
        exact ⟨hv, fun hp hc => (hsafe hp hc).copy⟩
    | powerFail => exact ⟨nofun, fun hp hc => State.CopySafe.powerFail (s := s.setEnv e) (hsafe hp hc)⟩
    | run | read => exact ⟨hv, fun hp hc => (hsafe hp hc).copy⟩
  | reset e _ hoff hr => exact ⟨resetBlock_vector hr, fun hp => absurd (hp.symm.trans hoff) nofun⟩
  | task e _ hp now rest ht htask =>
    obtain ⟨hkept, hcopy⟩ := taskStep_vector (hinv e) hp hv ht htask
    exact ⟨hkept, fun _ => hcopy⟩
  | fetch e _ hp ht hfetch =>
    obtain ⟨hkept, hcopy⟩ := (fetch_cases hfetch).vector hp hv ht
    exact ⟨hkept, fun _ hc => .inl (hcopy hc)⟩

end Sys2Proof.Machine
end

section
/-! The storage controller alone (40_storage.md): READ, the byte of a WRITE, Commit, erase, and the whole WRITE and
ERASE_RANGE (R120 to R132); what a power failure leaves (R131). -/

namespace Sys2Proof.Machine

variable {s t : State} {rest : List Task}

/-! ### READ -/

/-- R120, R121: a READ inside the array takes one step per byte. -/
theorem runSteps_read {use : ReadUse} (n : Nat) : ∀ {s : State} {a : Nat} {got : List Byte}, s.Free →
    s.todo = .read a (n + 1) got use :: rest → a + (n + 1) ≤ s.cfg.flashSize →
    runSteps (n + 1) s = .next (useRead use (got ++ s.mem.bytes a (n + 1)) rest s) := by
  induction n with
  | zero =>
    intro s a got hf ht ha
    refine runSteps_one ((step_task hf.1 hf.2 ht).trans ?_)
    rw [taskStep, readStep, readByte_inRange (by omega), afterByte_inRange (by omega), bytes_succ]
    rfl
  | succ n ih =>
    intro s a got hf ht ha
    have hstep : step s = .next (s.setTodo (.read (a + 1) (n + 1) (got ++ [s.mem.read a]) use :: rest)) := by
      rw [step_task hf.1 hf.2 ht, taskStep, readStep, readByte_inRange (by omega), afterByte_inRange (by omega)]
    have hrest := ih (s := s.setTodo (.read (a + 1) (n + 1) (got ++ [s.mem.read a]) use :: rest)) hf rfl
      (show a + 1 + (n + 1) ≤ s.cfg.flashSize by omega)
    rw [runSteps_succ hstep, hrest, useRead_setTodo, State.setTodo_mem, bytes_succ s.mem a, ← List.append_cons]

/-- R120, D10: at or beyond FLASH_SIZE a byte is a draw. -/
theorem readStep_beyond {a more : Nat} {got : List Byte} {use : ReadUse} (ha : s.cfg.flashSize ≤ a) :
    readStep a (more + 2) got use rest s =
      (s.setDraws (s.draws + 1)).setTodo (.read (a + 1) (more + 1) (got ++ [Config.draw s.draws]) use :: rest) := by
  rw [readStep, readByte, afterByte, if_neg (Nat.not_lt.2 ha), if_neg (Nat.not_lt.2 ha)]

/-- Settles O10: inside the array by induction on the bytes left; beyond it the byte is the next draw. -/
theorem readTakesAStepPerByte : Obligations.ReadTakesAStepPerByte := by
  intro s a n got use rest ha hc hn ht
  obtain ⟨n, rfl⟩ : ∃ k, n = k + 1 := ⟨n - 1, by omega⟩
  refine ⟨runSteps_read n ⟨ha, hc⟩ ht, fun h2 hbeyond => ?_⟩
  obtain ⟨more, rfl⟩ : ∃ k, n = k + 1 := ⟨n - 1, by omega⟩
  rw [step_task ha hc ht, taskStep, readStep_beyond hbeyond]
  rfl

/-! ### One primitive -/

/-- Settles O11: the load tests the address, then the block of the latch; what follows the byte is `afterLoad`. -/
theorem writeLoadsItsNextByte : Obligations.WriteLoadsItsNextByte := by
  intro a v later rest s ha hc ht
  have hstep : step s = latchLoad a v (s.setTodo (afterLoad a later ++ rest)) := step_task ha hc ht
  refine ⟨fun hout => ?_, fun k hin hk hne => ?_, fun hin hl => ?_⟩
  · rw [hstep, latchLoad]
    exact if_pos hout
  · rw [hstep, latchLoad]
    refine (if_neg (Nat.not_le.2 hin)).trans (if_pos ?_)
    simp [hk, hne]
  · have htodo : afterLoad a later ++ rest = if later = [] then .commit :: rest
        else if (a + 1) % 64 = 0 then .commit :: .write (a + 1) later :: rest else .write (a + 1) later :: rest := by
      split_ifs with hnil hend
      · simp [afterLoad, writeTasks, hnil]
      · simp [afterLoad, writeTasks, hnil, hend]
      · simp [afterLoad, writeTasks, hnil, hend]
    rw [hstep, htodo]
    exact latchLoad_next (s := s.setTodo _) hin hl

/-- Settles O12: the first primitive starts the cycle, the second one programs the latched cells, each at its own address. -/
theorem commitProgramsLatchedBytes : Obligations.CommitProgramsLatchedBytes := by
  intro s k rest ha hc ht hk hsorted
  have hstep : step s = commitStep rest s := step_task ha hc ht
  refine ⟨fun hb => ?_, fun hb => ⟨programCells s.cfg k s.latchMap s.mem, ?_, fun o v hmem => ?_, fun x hx => ?_⟩⟩
  · rw [hstep, commitStep, hb]
    rfl
  · rw [hstep, commitStep, if_pos hb, finishCommit_eq (s := s.setTodo rest) hk]
    rfl
  · exact read_programCells_of_mem s.cfg k hsorted hmem s.mem
  · exact read_programCells_of_notMem s.cfg k s.mem fun d hd => hx d.1 d.2 hd

/-- Settles O13. -/
theorem programModels : Obligations.ProgramModels :=
  fun c old v => ⟨fun h => by rw [programByte, h], fun h => by rw [programByte, h], programByte_erased c v⟩

/-- Settles O14: the first primitive tests the block and starts the cycle, the second one erases the block. -/
theorem eraseSetsOneBlock : Obligations.EraseSetsOneBlock := by
  intro k s rest ha hc ht
  have hstep : step s = eraseStep k rest s := step_task ha hc ht
  refine ⟨fun hb hk => ?_, fun hb hk => ?_, fun hb => ⟨s.mem.eraseBlock k, ?_, read_eraseBlock s.mem k⟩⟩
  · rw [hstep, eraseStep, hb, if_neg nofun, startErase, if_pos hk]
  · rw [hstep, eraseStep, hb, if_neg nofun, startErase, if_neg (Nat.not_le.2 hk)]
    rfl
  · rw [hstep, eraseStep, if_pos hb]
    rfl

/-! ### WRITE and ERASE_RANGE -/

/-- A range read back after a WRITE of it: each byte programmed (R132). -/
theorem bytes_programBytes (c : Params) (m : Memory) (a : Nat) (v : List Byte) :
    (programBytes c m a v).bytes a v.length = List.zipWith (programByte c) (m.bytes a v.length) v := by
  refine List.ext_getElem (by simp [bytes_length]) fun i hi _ => ?_
  rw [bytes_length] at hi
  simp [Memory.bytes, read_programBytes, hi]

/-- Settles O15: WRITE comes to the array with the range programmed; OVERWRITE and AND are the two program models. -/
theorem readBackAfterWrite : Obligations.ReadBackAfterWrite := by
  intro s a v ha hc hq ht hfit
  refine ⟨programBytes s.cfg s.mem a v, ?_, fun hm => ?_, fun hm => ?_, fun x hx => ?_⟩
  · exact (writeTasks_reaches (rest := []) ⟨ha, hc⟩ hq (by rw [ht, List.append_nil]) hfit (.refl _)).finishes rfl
  · have hprogram : programByte s.cfg = fun _ b => b := by funext old b; rw [programByte, hm]
    rw [bytes_programBytes, hprogram]
    exact List.ext_getElem (by simp [bytes_length]) fun i _ _ => by simp
  · have hprogram : programByte s.cfg = (· &&& ·) := by funext old b; rw [programByte, hm]
    rw [bytes_programBytes, hprogram]
  · rw [read_programBytes, if_neg (by omega)]

/-- ERASE_RANGE to a block-aligned limit of at least two blocks, run to completion (R128, R130). -/
theorem eraseRange_finishes {limit : Nat} (hf : s.Free) (hq : s.Quiet) (ht : s.todo = eraseRangeTasks limit)
    (h64 : limit % 64 = 0) (h128 : 128 ≤ limit) (hfl : limit ≤ s.cfg.flashSize) :
    ∃ m, s.Finishes { s with mem := m, sv := resetVector s.mem, todo := [] } ∧
      ∀ x, m.read x = if x < 4 then s.mem.read x else if x < limit then erasedByte else s.mem.read x := by
  have hn : limit / 64 = (limit / 64 - 1) + 1 := by omega
  refine ⟨rangeErased s.cfg s.mem (limit / 64 - 1), ?_, fun x => ?_⟩
  · exact (eraseRange_reaches (rest := []) hf hq (by rw [ht, List.append_nil]) hn (by omega) (by omega)
      (.refl _)).finishes rfl
  · have hblock : x / 64 < limit / 64 - 1 + 1 ↔ x < limit := by omega
    rw [read_rangeErased s.cfg s.mem (by omega) x]
    simp only [hblock]

/-- Settles O16. -/
theorem eraseRangeKeepsVector : Obligations.EraseRangeKeepsVector :=
  fun _ _ ha hc hq ht h64 h128 hfl => eraseRange_finishes ⟨ha, hc⟩ hq ht h64 h128 hfl

/-! ### Power failure -/

theorem powerFail_settled (s : State) : (powerFail s).Settled := ⟨⟨rfl, rfl, rfl, rfl⟩, rfl⟩

/-- R12, R131: a power failure that the schedule holds next is taken between any two primitives. -/
theorem step_powerFail {e : List Move} (hc : s.ctl ≠ .doneJump) (hi : s.inStep = false) (henv : s.env = .powerFail :: e) :
    step s = .next (powerFail (s.setEnv e)) := by
  have hturn : s.turn = none := by simp only [State.turn, hi, henv]; rfl
  rw [step_of_turn_none hc hturn, environmentTurn, henv]
  rfl

/-- Settles O18: the exposed addresses become draws, all others are kept; an idle array exposes none, a program cycle the
latched ones, an erase its block. -/
theorem powerFailureEffects : Obligations.PowerFailureEffects := by
  refine fun s => ⟨fun hb => ?_, fun k hb hk x hx => powerFail_read fun hmem => ?_,
    fun k hb x hx => powerFail_read fun hmem => ?_, fun x hx => (read_drawCells _ x s.mem s.draws).2 hx,
    powerFail_settled s, rfl, rfl, rfl, fun e hc hi henv => step_powerFail hc hi henv⟩
  · rw [powerFail_mem, exposedAddrs_idle hb]
    rfl
  · rw [exposedAddrs, hb] at hmem
    obtain ⟨j, hj, d, hd, rfl⟩ := mem_latchAddrs.1 hmem
    obtain rfl := Option.some.inj (hk.symm.trans hj)
    exact hx d.1 d.2 hd rfl
  · rw [exposedAddrs, hb] at hmem
    exact hx (mem_blockAddrs.1 hmem)

end Sys2Proof.Machine
end

section
/-! The commands (42_session.md): the payload they read (R181), what their checks refuse (R182 to R185), and what their writes
come to when the block runs alone (R182 to R187). -/

namespace Sys2Proof.Machine

variable {s t u : State} {rest : List Task}

/-! ### The payload -/

/-- Settles O20: a payload byte inside the frame is the buffer's byte two further on; past the frame R181 reads the buffer. -/
theorem payloadBytesComeFromBuffer : Obligations.PayloadBytesComeFromBuffer := by
  intro s i hlen hidx
  have hbyte : ((s.buf.take s.frIdx).drop 2)[i]? = if 2 + i < s.frIdx then s.buf[2 + i]? else none := by
    rw [List.getElem?_drop, List.getElem?_take]
  unfold payloadByte
  rw [hbyte]
  by_cases hin : 2 + i < s.frIdx
  · have hbuf : 2 + i < s.buf.length := by omega
    rw [if_pos hin, if_pos (by omega), List.getElem?_eq_getElem hbuf, List.getD_eq_getElem _ _ hbuf]
  · rw [if_neg hin]

/-! ### Refusals -/

/-- R261: a raised status and its response; nothing else changes. -/
theorem raised_of_ne_success {i : Instr} (hi : isCommand i = true) {st : Status} (hst : commandStatus i s = st)
    (hne : st ≠ .success) : exec i s = .next { s with st := st, pos := .respond st.response } := by
  have hreturn : exec i s = .next (returnStatus st s) := by
    subst hst
    cases i with
    | m p | n p | d p | x p => exact congrArg Host.Outcome.next (if_neg hne)
    | unknown op p => rfl
    | _ => cases hi
  rw [hreturn, returnStatus_of_ne_success s hne]

/-- Settles O23: the length is tested first; with data, the status is that of the sum. -/
theorem dataCommandRejected : Obligations.DataCommandRejected := by
  refine ⟨fun p s hlen => ?_, fun size a2 a1 a0 data s hdata hsum => ?_⟩
  · exact raised_of_ne_success (i := .d p) (st := .invalidPayload) rfl (if_pos hlen) nofun
  · have hlen : 5 ≤ (size :: a2 :: a1 :: a0 :: data).length := by
      have := List.length_pos_of_ne_nil hdata
      simp only [List.length_cons]
      omega
    refine raised_of_ne_success (i := .d _) (st := .deniedAddress) rfl ((if_neg (Nat.not_lt.2 hlen)).trans (if_pos ?_)) nofun
    unfold dSum
    rcases hsum with ⟨hm, hsum⟩ | ⟨hm, hsum⟩ <;> rw [hm] <;> exact hsum

/-! ### Writes -/

theorem setTodo_self {ts : List Task} (h : s.todo = ts) : s.setTodo ts = s := h ▸ rfl

/-- R180, R182 to R187: where a command ends that has written. -/
def commandDone (m : Memory) (s : State) : State := ((s.setMem m).setStatus .success).setPos (.respond .ack)

/-- A command whose writes are done returns Success and ends. -/
theorem success_reaches {m : Memory} (hf : s.Free) (ht : s.todo = []) :
    ((s.setMem m).setTodo [.ret .success]).Reaches (commandDone m s) := by
  refine ret_reaches (s := (s.setMem m).setTodo _) (rest := []) hf rfl ?_
  have hsame : ((s.setMem m).setTodo [.ret .success]).setTodo [] = s.setMem m := setTodo_self (s := s.setMem m) ht
  rw [hsame]
  exact .refl _

/-- A command with one WRITE of bytes that lie in the array. -/
theorem write_finishes {a : Nat} {v : List Byte} (hf : s.Free) (hs : s.Settled) (hfit : a + v.length ≤ s.cfg.flashSize) :
    (s.setTodo (writeTasks a v ++ [.ret .success])).Finishes (commandDone (programBytes s.cfg s.mem a v) s) :=
  (writeTasks_reaches (s := s.setTodo (writeTasks a v ++ [.ret .success])) (rest := [.ret .success]) hf hs.1 rfl hfit
    (success_reaches (s := s) hf hs.2)).finishes hs.2

/-- A command with two WRITEs. -/
theorem writes_finish {a b : Nat} {v w : List Byte} (hf : s.Free) (hs : s.Settled) (ha : a + v.length ≤ s.cfg.flashSize)
    (hb : b + w.length ≤ s.cfg.flashSize) :
    (s.setTodo (writeTasks a v ++ writeTasks b w ++ [.ret .success])).Finishes
      (commandDone (programBytes s.cfg (programBytes s.cfg s.mem a v) b w) s) := by
  refine State.Reaches.finishes ?_ hs.2
  rw [List.append_assoc]
  let rest : List Task := writeTasks b w ++ [.ret .success]
  exact writeTasks_reaches (s := s.setTodo (writeTasks a v ++ rest)) (rest := rest) hf hs.1 rfl ha
    (writeTasks_reaches (s := (s.setMem (programBytes s.cfg s.mem a v)).setTodo rest) hf hs.1 rfl hb
      (success_reaches (s := s) hf hs.2))

theorem fields_fit {c : Params} (h : c.Wf) :
    c.signatOffset + 64 = c.codeSizeOffset ∧ c.codeSizeOffset + 3 = c.btldOffset ∧ c.btldOffset ≤ c.flashSize := by
  obtain ⟨-, -, -, -, h128, hflash, -⟩ := h
  simp only [Params.signatOffset, Params.codeSizeOffset, sigLen, sizeLen]
  omega

theorem exec_m_of_length {p : List Byte} (s : State) (hp : p.length = 3) :
    exec (.m p) s = .next (s.setTodo (writeTasks s.cfg.codeSizeOffset p ++ [.ret .success])) := by
  have hself := payloadBytes_self p s
  rw [hp] at hself
  rw [exec, execM, if_pos (show statusM p = .success from if_pos hp), hself]
  rfl

theorem exec_n_of_length {p : List Byte} (s : State) (hp : p.length = 64) :
    exec (.n p) s = .next (s.setTodo (writeTasks s.cfg.signatOffset p ++ [.ret .success])) := by
  have hself := payloadBytes_self p s
  rw [hp] at hself
  rw [exec, execN, if_pos (show statusN p = .success from if_pos hp), hself]
  rfl

theorem writeTasks_of_length {a n : Nat} {p : List Byte} (hp : p.length = n + 1) : writeTasks a p = [.write a p] :=
  if_neg fun hnil => by rw [hnil] at hp; cases hp

/-- Settles O21: a payload of 3 bytes is one WRITE at the size field; any other length is raised. -/
theorem sizeCommand : Obligations.SizeCommand := by
  refine ⟨fun p s hcfg ha hc hs hp => ?_,
    fun p s hp => raised_of_ne_success (i := .m p) (st := .invalidPayload) rfl (if_neg hp) nofun⟩
  obtain ⟨-, hsize, hflash⟩ := fields_fit hcfg
  have hexec := exec_m_of_length s hp
  have hdone := write_finishes (a := s.cfg.codeSizeOffset) (v := p) ⟨ha, hc⟩ hs (by omega)
  rw [writeTasks_of_length hp] at hexec hdone
  exact ⟨hexec, programBytes s.cfg s.mem s.cfg.codeSizeOffset p, hdone, fun x => by rw [read_programBytes, hp]⟩

/-- Settles O22: a payload of 64 bytes is one WRITE at the signature field; any other length is raised. -/
theorem signatureCommand : Obligations.SignatureCommand := by
  refine ⟨fun p s hcfg ha hc hs hp => ?_,
    fun p s hp => raised_of_ne_success (i := .n p) (st := .invalidPayload) rfl (if_neg hp) nofun⟩
  obtain ⟨hsig, hsize, hflash⟩ := fields_fit hcfg
  have hexec := exec_n_of_length s hp
  have hdone := write_finishes (a := s.cfg.signatOffset) (v := p) ⟨ha, hc⟩ hs (by omega)
  rw [writeTasks_of_length hp] at hexec hdone
  exact ⟨hexec, programBytes s.cfg s.mem s.cfg.signatOffset p, hdone, fun x => by rw [read_programBytes, hp]⟩

/-! ### `D` -/

/-- R185: an accepted `D` starts its writes; the reads of its payload may have taken draws (log 12). -/
theorem exec_d_of_success {p : List Byte} (h : statusD p s = .success) :
    ∃ d, exec (.d p) s = .next ((s.setDraws d).setTodo (commandWrites (.d p) s ++ [.ret .success])) := by
  obtain ⟨d, hd⟩ := afterPayload_eq s (dTop p s)
  refine ⟨d, ?_⟩
  rw [exec, execD, if_pos h, hd]
  rfl

section
variable {size a2 a1 a0 : Byte} {data : List Byte}

theorem statusD_of_sum (hdata : data ≠ []) (hsum : dSum s.cfg (be24 a2 a1 a0) size.toNat < s.cfg.signatOffset) :
    statusD (size :: a2 :: a1 :: a0 :: data) s = .success := by
  have := List.length_pos_of_ne_nil hdata
  exact (statusD_success_iff (by simp only [List.length_cons]; omega)).2 hsum

theorem dSum_le (c : Params) (a n : Nat) : dSum c a n ≤ a + n := by
  unfold dSum
  split
  · exact Nat.le_refl _
  · exact Nat.mod_le _ _

/-- R186: what the two writes of a `D` at address 0 leave. -/
theorem read_twoWrites (c : Params) (p : List Byte) (s : State) (m : Memory) (n x : Nat) :
    (programBytes c (programBytes c m 4 (payloadBytes p s 4 4)) 8
        (payloadBytes p s 8 (if 8 < n then n - 4 else 0))).read x =
      if 4 ≤ x ∧ x < 8 ∨ 8 < n ∧ 8 ≤ x ∧ x < n + 4 then programByte c (m.read x) (payloadByte p s x) else m.read x := by
  rw [read_programBytes, read_programBytes, payloadBytes_length, payloadBytes_length]
  by_cases hlow : 4 ≤ x ∧ x < 8
  · rw [if_neg (by omega), if_pos (by omega), if_pos (.inl hlow), payloadBytes_getD _ _ _ (by omega),
      Nat.add_sub_cancel' hlow.1]
  · by_cases hhigh : 8 < n ∧ 8 ≤ x ∧ x < n + 4
    · rw [if_pos hhigh.1, if_pos (by omega), if_neg (by omega), if_pos (.inr hhigh),
        payloadBytes_getD _ _ _ (by omega), Nat.add_sub_cancel' hhigh.2.1]
    · have hout : ¬ (8 ≤ x ∧ x < 8 + if 8 < n then n - 4 else 0) := by
        split_ifs <;> omega
      rw [if_neg hout, if_neg hlow, if_neg (not_or.2 ⟨hlow, hhigh⟩)]

/-- Settles O24: the first four data bytes are one WRITE, those above size 8 another; together they program the payload
bytes at their own indices. -/
theorem dataCommandAtZero : Obligations.DataCommandAtZero := by
  intro size data s hcfg ha hc hs hdata hsize
  obtain ⟨hsig, hfield, hflash⟩ := fields_fit hcfg
  have hzero : be24 0#8 0#8 0#8 = 0 := by decide
  have hsum := dSum_le s.cfg (be24 0#8 0#8 0#8) size.toNat
  have hst : statusD (size :: 0#8 :: 0#8 :: 0#8 :: data) s = .success := statusD_of_sum hdata (by omega)
  obtain ⟨d, hexec⟩ := exec_d_of_success hst
  generalize hp : size :: 0#8 :: 0#8 :: 0#8 :: data = p at hexec ⊢
  have h0 : dAddr p s = 0 := by rw [← hp]; exact hzero
  have hn : dSize p s = size.toNat := by rw [← hp]; rfl
  have hwrites : commandWrites (.d p) s = writeTasks 4 (payloadBytes p s 4 4) ++
      writeTasks 8 (payloadBytes p s 8 (if 8 < size.toNat then size.toNat - 4 else 0)) := by
    simp only [commandWrites, if_pos h0, writesAtZero, hn]
    split_ifs <;> rfl
  rw [hwrites] at hexec
  refine ⟨_, _, d, hexec, writes_finish (s := s.setDraws d) ⟨ha, hc⟩ hs ?_ ?_, ⟨_, rfl⟩, fun x => ?_⟩
  · rw [payloadBytes_length]
    exact le_trans (by omega) hflash
  · rw [payloadBytes_length]
    refine le_trans ?_ hflash
    split_ifs <;> omega
  · exact read_twoWrites _ _ _ _ _ x

/-- R187: the one WRITE of a `D` elsewhere. -/
theorem commandWrites_elsewhere {p : List Byte} (h0 : dAddr p s ≠ 0) :
    commandWrites (.d p) s = writeTasks (dAddr p s) (payloadBytes p s 4 (dSize p s)) := if_neg h0

theorem read_payload (c : Params) (p : List Byte) (s : State) (m : Memory) (a n x : Nat) :
    (programBytes c m a (payloadBytes p s 4 n)).read x =
      if a ≤ x ∧ x < a + n then programByte c (m.read x) (payloadByte p s (4 + (x - a))) else m.read x := by
  rw [read_programBytes, payloadBytes_length]
  split_ifs with hx
  · rw [payloadBytes_getD _ _ _ (by omega)]
  · rfl

/-- Settles O25: the data bytes are one WRITE, whose range the check or the premise puts inside the array. -/
theorem dataCommandElsewhere : Obligations.DataCommandElsewhere := by
  intro size a2 a1 a0 data s hcfg ha hc hs hdata h0 hsum hrange
  obtain ⟨hsig, hfield, hflash⟩ := fields_fit hcfg
  have hfit : be24 a2 a1 a0 + size.toNat ≤ s.cfg.flashSize := hrange.elim (fun hm => by
    rw [dSum, hm] at hsum
    simp only at hsum
    omega) id
  obtain ⟨d, hexec⟩ := exec_d_of_success (statusD_of_sum (s := s) hdata hsum)
  generalize hp : size :: a2 :: a1 :: a0 :: data = p at hexec ⊢
  have haddr : dAddr p s = be24 a2 a1 a0 := by rw [← hp]; rfl
  have hn : dSize p s = size.toNat := by rw [← hp]; rfl
  rw [commandWrites_elsewhere (haddr ▸ h0), haddr, hn] at hexec
  refine ⟨_, _, d, hexec, write_finishes (s := s.setDraws d) ⟨ha, hc⟩ hs ?_, ⟨_, rfl⟩, fun x => ?_⟩
  · rw [payloadBytes_length]
    exact hfit
  · exact read_payload _ _ _ _ _ _ x
end

end Sys2Proof.Machine
end

section
/-! A `D` whose range runs past the array (R122, R185, R265): what it has written when it faults. -/

namespace Sys2Proof.Machine

variable {s u : State} {rest : List Task}

/-- The first bytes of a WRITE, up to a block boundary, from a partly loaded latch: they are programmed, and the WRITE of
the others comes next (R122). -/
theorem write_reaches_blockEnd {w : List Byte} (later : List Byte) : ∀ {s : State} {a : Nat} {v : Byte}, s.Free →
    s.todo = .write a (v :: later ++ w) :: rest → s.nvmBusy = .idle → s.LatchBefore a →
    a + (v :: later).length ≤ s.cfg.flashSize → (a + (v :: later).length) % 64 = 0 →
    (written (programBytes s.cfg (programCells s.cfg (a / 64) s.latchMap s.mem) a (v :: later))
      (writeTasks (a + (v :: later).length) w ++ rest) s).Reaches u →
    s.Reaches u := by
  induction later with
  | nil =>
    intro s a v hf ht hb hl ha hend hu
    rw [← programBytes_after_latch _ _ _ _ _ hl.below] at hu
    exact load_reaches (later := w) hf ht hl ha
      (commit_reaches hf (congrArg (· ++ rest) (afterLoad_commit (.inl hend))) hb rfl hu)
  | cons b later ih =>
    intro s a v hf ht hb hl ha hend hu
    rw [← programBytes_after_latch _ _ _ _ _ hl.below] at hu
    have hlen : a + (v :: b :: later).length = a + 1 + (b :: later).length := by simp only [List.length_cons]; omega
    rw [hlen] at ha hend hu
    refine load_reaches (later := b :: later ++ w) hf ht hl (by simp only [List.length_cons] at ha; omega) ?_
    by_cases hblock : (a + 1) % 64 = 0
    · refine commit_reaches (k := a / 64) (rest := writeTasks (a + 1) (b :: later ++ w) ++ rest) hf
        (congrArg (· ++ rest) (afterLoad_commit (.inl hblock))) hb rfl ?_
      refine ih (a := a + 1) (v := b) hf (congrArg (· ++ rest) (writeTasks_cons _ _ _)) rfl (.inl ⟨rfl, rfl⟩) ha hend ?_
      rw [written_written, written_loaded]
      exact hu
    · have hblk : (a + 1) / 64 = a / 64 := by omega
      refine ih (a := a + 1) (v := b) hf (congrArg (· ++ rest) (afterLoad_write hblock)) hb
        (.inr ⟨congrArg some hblk.symm, fun c hc => ?_⟩) ha hend ?_
      · rcases mem_setCell.1 hc with rfl | ⟨hc, _⟩
        · show a % 64 < (a + 1) % 64
          omega
        · have := hl.below c hc
          omega
      · rw [hblk]
        exact hu

/-- A WRITE that reaches past the array comes to its first byte there, with the bytes before programmed. -/
theorem write_reaches_arrayEnd {a : Nat} {v : List Byte} (hf : s.Free) (hq : s.Quiet) (hflash : s.cfg.flashSize % 64 = 0)
    (ht : s.todo = .write a v :: rest) (hv : v ≠ []) (hlong : s.cfg.flashSize < a + v.length) :
    ∃ b w t, t = (s.setMem (programBytes s.cfg s.mem a (v.take (s.cfg.flashSize - a)))).setTodo
        (.write (max a s.cfg.flashSize) (b :: w) :: rest) ∧ s.Reaches t := by
  obtain ⟨hblk, hmap, hbusy, -⟩ := hq
  by_cases hin : a < s.cfg.flashSize
  · obtain ⟨c, pre, hpre⟩ := List.exists_cons_of_ne_nil (l := v.take (s.cfg.flashSize - a)) (by
      rw [Ne, ← List.length_eq_zero_iff, List.length_take]; omega)
    obtain ⟨b, w, hpost⟩ := List.exists_cons_of_ne_nil (l := v.drop (s.cfg.flashSize - a)) (by
      rw [Ne, ← List.length_eq_zero_iff, List.length_drop]; omega)
    have hend : a + (c :: pre).length = s.cfg.flashSize := by rw [← hpre, List.length_take]; omega
    have hv : v = c :: pre ++ b :: w := by rw [← hpre, ← hpost, List.take_append_drop]
    refine ⟨b, w, _, rfl, write_reaches_blockEnd pre hf (hv ▸ ht) hbusy (.inl ⟨hblk, hmap⟩) hend.le (hend ▸ hflash) ?_⟩
    rw [hend, writeTasks_cons, max_eq_right hin.le, hpre, hmap]
    have hsame : ∀ m ts, written m ts s = (s.setMem m).setTodo ts := by
      intro m ts
      simp only [written, ← hblk, ← hmap, ← hbusy]
      rfl
    rw [hsame]
    exact .refl _
  · obtain ⟨b, w, rfl⟩ := List.exists_cons_of_ne_nil hv
    refine ⟨b, w, _, rfl, ?_⟩
    rw [Nat.sub_eq_zero_of_le (Nat.not_lt.1 hin), max_eq_left (Nat.not_lt.1 hin), ← ht]
    exact .refl s

/-- A `D` of no bytes whose address passes the check lies below SIGNAT_OFFSET. -/
theorem size_ne_zero_of_long {c : Params} {a n : Nat} (h : c.Wf) (hlt : a < 2 ^ 24) (hsum : dSum c a n < c.signatOffset)
    (hlong : c.flashSize < a + n) : n ≠ 0 := fun hzero => by
  obtain ⟨hsig, hsize, hflash⟩ := fields_fit h
  have hexact : dSum c a 0 = a := by
    unfold dSum
    split
    · rfl
    · exact Nat.mod_eq_of_lt hlt
  rw [hzero] at hsum hlong
  omega

/-- The array after the first bytes of a payload (R122, R181). -/
theorem read_payload_take (c : Params) (p : List Byte) (s : State) (m : Memory) (a x : Nat) {n k : Nat} (h : k ≤ n) :
    (programBytes c m a ((payloadBytes p s 4 n).take k)).read x =
      if a ≤ x ∧ x < a + k then programByte c (m.read x) (payloadByte p s (4 + (x - a))) else m.read x := by
  rw [read_programBytes, List.length_take, payloadBytes_length, Nat.min_eq_left h]
  split_ifs with hx
  · have hlt : x - a < k := by omega
    rw [List.getD_eq_getElem?_getD, List.getElem?_take_of_lt hlt, ← List.getD_eq_getElem?_getD,
      payloadBytes_getD _ _ _ (by omega)]
  · rfl

/-- Settles O26: the WRITE of the data comes to its first byte past the array, and LatchLoad faults there. -/
theorem wrappedDataCommandFaults : Obligations.WrappedDataCommandFaults := by
  intro size a2 a1 a0 data s hcfg ha hc hs hdata h0 hsum hlong
  obtain ⟨d, hexec⟩ := exec_d_of_success (statusD_of_sum (s := s) hdata hsum)
  generalize hp : size :: a2 :: a1 :: a0 :: data = p at hexec ⊢
  have haddr : dAddr p s = be24 a2 a1 a0 := by rw [← hp]; rfl
  have hn : dSize p s = size.toNat := by rw [← hp]; rfl
  rw [commandWrites_elsewhere (haddr ▸ h0), haddr, hn] at hexec
  have hsize := size_ne_zero_of_long hcfg (be24_lt a2 a1 a0) hsum hlong
  clear haddr hn hsum h0
  generalize be24 a2 a1 a0 = a at hexec hlong ⊢
  generalize size.toNat = n at hsize hexec hlong ⊢
  have hlen := payloadBytes_length p s 4 n
  have hv : payloadBytes p s 4 n ≠ [] := fun hnil => hsize (by rw [← hlen, hnil]; rfl)
  let start := (s.setDraws d).setTodo (writeTasks a (payloadBytes p s 4 n) ++ [.ret .success])
  obtain ⟨b, w, u, hu, k, hrun⟩ := write_reaches_arrayEnd (s := start) ⟨ha, hc⟩ hs.1 hcfg.1
    (congrArg (· ++ _) (if_neg hv)) hv (by rw [hlen]; exact hlong)
  refine ⟨start, k, u, hexec, hrun, ?_, ?_, fun x => ?_⟩
  · rw [hu]
    exact (step_task (s := (start.setMem _).setTodo _) ha hc rfl).trans (if_pos (Nat.le_max_right _ _))
  · rw [hu]
    exact hs.1
  · rw [hu]
    refine (read_payload_take _ p s _ a x (Nat.sub_le_iff_le_add'.2 hlong.le)).trans (if_congr ?_ rfl rfl)
    show a ≤ x ∧ x < a + (s.cfg.flashSize - a) ↔ _
    omega

end Sys2Proof.Machine
end

section
/-! The digest pipeline (43_digest.md): the streaming hash, the closed form of R214, and that every verification finishes
(R210, R211). -/

namespace Sys2Proof.Machine

variable {s t u : State} {rest : List Task}

/-- Settles O35: an update with a piece and then another is the update with both. -/
theorem streamingHash : Obligations.StreamingHash := by
  intro pieces
  have hfold : ∀ (ps : List (List Byte)) (c : HashCtx), ps.foldl hashUpdate c = hashUpdate c ps.flatten := by
    intro ps
    induction ps with
    | nil => exact fun c => rfl
    | cons p ps ih => exact fun c => by rw [List.foldl_cons, ih, List.flatten_cons, hashUpdate_append]
  rw [hfold, sha256]

/-- VERIFY_AND_BOOT starts with the READ of the size field (R210, R236). -/
theorem step_verify (ha : s.Alone) (ht : s.todo = []) (hc : s.ctl = .verifyAndBoot) (hp : s.pos = .body) :
    step s = .next (startVerify s) := by
  rw [step_fetch ha (hc ▸ nofun) ht]
  simp only [fetchTurn, hc, hp, Turn.outcome]

/-- The state with the elements of the digest pipeline, the verdict and its response (R210 to R215). -/
def judged (n a : Nat) (c : List Byte) (x : HashCtx) (digest : List Byte) (ok : Bool) (s : State) : State :=
  { s with
    dgN := n, dgAddr := a, dgRem := 0, chunk := c, dgCtx := x, digest := digest, sigOk := ok
    pos := .respond (verdictResponse ok) }

theorem judgeImage_judged (n a : Nat) (c : List Byte) (x : HashCtx) (digest sig : List Byte) (ht : s.todo = []) :
    judgeImage sig [] (((s.setSize n).setHash a 0 c x).setDigest digest) =
      judged n a c x digest (Config.verify Config.pubKey digest sig) s := by
  simp only [judgeImage, State.setDigest_digest]
  generalize Config.verify Config.pubKey digest sig = ok
  exact setTodo_self (s := judged n a c x digest ok s) ht

/-- Settles O36: the loop hashes the image inside the array; the signature READ and VERIFY follow. -/
theorem verifyHashesCanonicalImage : Obligations.VerifyHashesCanonicalImage := by
  intro s hcfg hs ha hc hp hn
  obtain ⟨hsig, hsize, hflash⟩ := fields_fit hcfg
  obtain ⟨a, c, hreach⟩ := startVerify_reaches (s := s) ⟨ha, hc ▸ nofun⟩ (by omega) (by omega) hcfg.1 hn
  rw [judgeImage_judged _ _ _ _ _ _ hs.2] at hreach
  exact ⟨startVerify s, a, c, _, step_verify ha hs.2 hc hp, hreach.finishes hs.2⟩

/-- The canonical image of a size below 4 is made of the bytes from 4 on, a larger one of those and of the bytes from 8 on
(R214). -/
theorem canonImage_congr {m m' : Memory} {n : Nat} (hlow : ∀ i, i < min 4 n → m'.read (4 + i) = m.read (4 + i))
    (hhigh : ∀ x, 8 ≤ x → x < n → m'.read x = m.read x) : canonImage m' n = canonImage m n := by
  refine List.map_congr_left fun i hi => ?_
  have hi := List.mem_range.1 hi
  unfold canonByte
  split_ifs with h4 h8
  · rw [Nat.add_comm]
    exact hlow i (by omega)
  · rfl
  · exact hhigh i (by omega) hi

/-- Settles O38: both verifications finish with the hash of their canonical images, which are the same. -/
theorem digestDependsOnCanonicalBytes : Obligations.DigestDependsOnCanonicalBytes := by
  intro s s' t t' u u' hcfg hs ha hc hp hsame hs' ha' hc' hp' hn hn' hlow hhigh ht ht' hu hu'
  have digest_of : ∀ {s t u : State}, s.cfg.Wf → s.Settled → s.Alone → s.ctl = .verifyAndBoot → s.pos = .body →
      imageSize s ≤ s.cfg.flashSize → step s = .next t → t.Finishes u →
      u.digest = sha256 (canonImage s.mem (imageSize s)) := by
    intro s t u hcfg hs ha hc hp hn ht hu
    obtain ⟨v, a, c, x, hv, hend⟩ := verifyHashesCanonicalImage s hcfg hs ha hc hp hn
    obtain rfl : v = t := Host.Outcome.next.inj (hv.symm.trans ht)
    rw [hu.unique hend]
  have hin : imageSize s' ≤ s'.cfg.flashSize := by rw [hn', hsame]; exact hn
  have hcfg' : s'.cfg.Wf := by rw [hsame]; exact hcfg
  rw [digest_of hcfg hs ha hc hp hn ht hu, digest_of hcfg' hs' ha' hc' hp' hin ht' hu', hn', canonImage_congr hlow hhigh]

/-! ### Any image size -/

/-- A READ finishes wherever it reads (R120): beyond the array it takes draws. -/
theorem read_reaches_anywhere {use : ReadUse} (n : Nat) : ∀ {s : State} {a : Nat} {got : List Byte}, s.Free →
    s.todo = .read a (n + 1) got use :: rest →
    ∃ bytes d, ∀ u, (useRead use bytes rest (s.setDraws d)).Reaches u → s.Reaches u := by
  induction n with
  | zero =>
    intro s a got hf ht
    obtain ⟨d, hd⟩ := afterByte_eq s a
    refine ⟨got ++ [readByte s a], d, fun u hu => .of_primitive hf ht rfl ?_⟩
    rw [← hd] at hu
    exact hu
  | succ n ih =>
    intro s a got hf ht
    obtain ⟨d, hd⟩ := afterByte_eq s a
    obtain ⟨bytes, d', hrest⟩ := ih (s := (s.setDraws d).setTodo (.read (a + 1) (n + 1) (got ++ [readByte s a]) use :: rest))
      (a := a + 1) (got := got ++ [readByte s a]) hf rfl
    refine ⟨bytes, d', fun u hu => .of_primitive hf ht (congrArg Host.Outcome.next ?_) (hrest u ?_)⟩
    · rw [readStep, hd]
    · exact (useRead_setTodo use bytes rest _ (s.setDraws d')).symm ▸ hu

/-- One turn of the loop, wherever its chunk lies (R211). -/
theorem chunk_reaches_anywhere (hf : s.Free) (h0 : s.dgRem ≠ 0) :
    ∃ d c x, ∀ u, (nextChunk rest ((s.setDraws d).setHash (s.dgAddr + 64) (s.dgRem - min 64 s.dgRem) c x)).Reaches u →
      (nextChunk rest s).Reaches u := by
  have hread : nextChunk rest s = s.setTodo (.read s.dgAddr blockSize [] .chunk :: rest) := by rw [nextChunk, if_neg h0]
  rw [hread]
  obtain ⟨bytes, d, hstored⟩ := read_reaches_anywhere (s := s.setTodo (.read s.dgAddr blockSize [] .chunk :: rest)) 63 hf rfl
  exact ⟨d, _, _, fun u hu => hstored u (.of_primitive (s := storeChunk bytes rest (s.setDraws d)) hf rfl rfl hu)⟩

/-- The loop finishes whatever the size is (R211). -/
theorem chunks_reach_anywhere (n : Nat) : ∀ {s : State}, s.Free → s.dgRem ≤ 64 * n →
    ∃ d a c x, ∀ u, (nextChunk rest ((s.setDraws d).setHash a 0 c x)).Reaches u → (nextChunk rest s).Reaches u := by
  induction n with
  | zero =>
    intro s _ hn
    have h0 : s.dgRem = 0 := by omega
    exact ⟨s.draws, s.dgAddr, s.chunk, s.dgCtx, fun u hu => by rwa [← h0] at hu⟩
  | succ n ih =>
    intro s hf hn
    by_cases h0 : s.dgRem = 0
    · exact ih hf (by omega)
    · obtain ⟨d, c, x, hturn⟩ := chunk_reaches_anywhere (rest := rest) hf h0
      obtain ⟨d', a, c', x', hloop⟩ := ih
        (s := (s.setDraws d).setHash (s.dgAddr + 64) (s.dgRem - min 64 s.dgRem) c x) hf
        (show s.dgRem - min 64 s.dgRem ≤ 64 * n by omega)
      exact ⟨d', a, c', x', fun u hu => hturn u (hloop u hu)⟩

/-- VerifyImage up to its loop: the size field is read (R210). -/
theorem startVerify_reaches_loop (hf : s.Free) (hsize : s.cfg.codeSizeOffset + 3 ≤ s.cfg.flashSize)
    (hu : (nextChunk [] ((s.setSize (imageSize s)).setHash 0 (imageSize s) s.chunk hashInit)).Reaches u) :
    (startVerify s).Reaches u := by
  refine read_reaches (s := startVerify s) (rest := []) 2 hf rfl hsize ?_
  have hread : useRead .imageSize ([] ++ s.mem.bytes s.cfg.codeSizeOffset (2 + 1)) [] (startVerify s) =
      (s.setSize (imageSize s)).setTodo [.hashInit] := useSize_bytes [] (startVerify s)
  exact hread.symm ▸ .of_primitive (s := (s.setSize (imageSize s)).setTodo [.hashInit]) hf rfl rfl hu

/-- Settles O37: the loop takes off 64 of the bytes left until none is; the signature READ and VERIFY follow. -/
theorem verifyAlwaysAnswers : Obligations.VerifyAlwaysAnswers := by
  intro s hcfg hs ha hc hp
  obtain ⟨hsig, hsize, hflash⟩ := fields_fit hcfg
  have hf : s.Free := ⟨ha, hc ▸ nofun⟩
  obtain ⟨d, a, c, x, hloop⟩ := chunks_reach_anywhere (rest := [])
    (s := (s.setSize (imageSize s)).setHash 0 (imageSize s) s.chunk hashInit) (imageSize s) hf
    (Nat.le_mul_of_pos_left _ (by decide))
  refine ⟨startVerify s, judged (imageSize s) a c x (hashFinal x)
    (Config.verify Config.pubKey (hashFinal x) (storedSignature s)) (s.setDraws d), step_verify ha hs.2 hc hp,
    (startVerify_reaches_loop hf (by omega) (hloop _ (signature_reaches hf rfl ?_ ?_))).finishes hs.2,
    rfl, rfl, rfl, rfl, rfl, rfl, hc, rfl⟩
  · show s.cfg.signatOffset + 64 ≤ s.cfg.flashSize
    omega
  · rw [← judgeImage_judged (s := s.setDraws d) _ _ _ _ _ _ hs.2]
    exact .refl _

end Sys2Proof.Machine
end

section
/-! The sequencer (44_sequencer.md): the handshake wait, ERASE, the responses, and what a step is between two sequences
(R231 to R239). -/

namespace Sys2Proof.Machine

variable {s t u : State} {rest : List Task}

/-! ### The handshake -/

theorem setRx_of_on (h : s.rxEnable = true) (q : List Byte) : s.setRx true q = { s with rxq := q } := by
  rw [← h]
  rfl

/-- R233: a byte that waits goes to the matcher. -/
theorem handshakeStep_byte {b : Byte} {q : List Byte} (h0 : 0 < s.hsBudget) (hrx : s.rxEnable = true)
    (hq : s.rxq = b :: q) :
    handshakeStep s = matchByte b { s with hsBudget := s.hsBudget - 1, rxq := q } := by
  obtain ⟨hzero, -⟩ | ⟨-, hidle, -⟩ | ⟨c, r, -, -, hcons, hstep⟩ := handshakeStep_cases s
  · omega
  · simp [hrx, hq] at hidle
  · obtain ⟨rfl, rfl⟩ := List.cons.inj (hq.symm.trans hcons)
    rw [hstep, setRx_of_on (s := s.setHandshake s.hsMatched (s.hsBudget - 1)) hrx]
    rfl

/-- Settles O40: the expected byte moves the match on, to ERASE from 4, any other takes it to 0. -/
theorem handshakePoll : Obligations.HandshakePoll := by
  intro s
  refine ⟨fun h0 => congrArg Host.Outcome.next (if_pos h0), fun h0 hidle => congrArg Host.Outcome.next ?_,
    fun b q h0 hrx hq => ?_⟩
  · obtain ⟨hzero, -⟩ | ⟨-, -, hstep⟩ | ⟨b, q, -, hrx, hq, -⟩ := handshakeStep_cases s
    · omega
    · exact hstep
    · simp [hrx, hq] at hidle
  · have hexec : exec .hsReq s = .next (matchByte b { s with hsBudget := s.hsBudget - 1, rxq := q }) :=
      congrArg Host.Outcome.next (handshakeStep_byte h0 hrx hq)
    rw [hexec]
    refine ⟨fun hb h4 => ?_, fun hb h4 => ?_, fun hb => ?_⟩
    · have hnext : matchNext s.hsMatched b = s.hsMatched + 1 := if_pos hb
      rw [matchByte, hnext, if_neg (by omega)]
      rfl
    · have hnext : matchNext s.hsMatched b = 5 := by rw [matchNext, if_pos hb, h4]
      rw [matchByte, hnext, if_pos rfl]
      rfl
    · have hnext : matchNext s.hsMatched b = 0 := if_neg hb
      rw [matchByte, hnext, if_neg nofun]
      rfl

/-- R233: the block polls alone in HANDSHAKE_WAIT. -/
structure State.Waits (s : State) : Prop where
  alone : s.Alone
  todo : s.todo = []
  ctl : s.ctl = .handshakeWait
  pos : s.pos = .body

theorem State.Waits.step_eq (h : s.Waits) : step s = .next (handshakeStep s) := by
  rw [step_fetch h.alone (by simp [h.ctl]) h.todo]
  simp only [fetchTurn, h.ctl, h.pos]
  rfl

/-- A poll ends the wait or takes one off its budget. -/
theorem State.Waits.poll (h : s.Waits) :
    (handshakeStep s).ctl = .verifyAndBoot ∨ (handshakeStep s).ctl = .erase ∨
      (handshakeStep s).Waits ∧ (handshakeStep s).hsBudget + 1 = s.hsBudget := by
  obtain ⟨-, hstep⟩ | ⟨h0, -, hstep⟩ | ⟨b, q, h0, -, -, hstep⟩ := handshakeStep_cases s <;> rw [hstep]
  · exact .inl rfl
  · exact .inr (.inr ⟨⟨h.alone, h.todo, h.ctl, h.pos⟩, Nat.sub_add_cancel h0⟩)
  · obtain ⟨-, hmatch⟩ | ⟨-, hmatch⟩ := matchByte_cases b ((s.setHandshake s.hsMatched (s.hsBudget - 1)).setRx true q) <;>
      rw [hmatch]
    · exact .inr (.inl rfl)
    · exact .inr (.inr ⟨⟨h.alone, h.todo, h.ctl, h.pos⟩, Nat.sub_add_cancel h0⟩)

theorem handshakeStep_out (s : State) : (handshakeStep s).out = s.out := by
  obtain ⟨-, hstep⟩ | ⟨-, -, hstep⟩ | ⟨b, q, -, -, -, hstep⟩ := handshakeStep_cases s <;> rw [hstep]
  · rfl
  · rfl
  · obtain ⟨-, hmatch⟩ | ⟨-, hmatch⟩ := matchByte_cases b ((s.setHandshake s.hsMatched (s.hsBudget - 1)).setRx true q) <;>
      rw [hmatch] <;> rfl

/-- Settles O41, by induction on the budget. -/
theorem handshakeWaitEnds : Obligations.HandshakeWaitEnds := by
  intro s ha ht hc hp
  have hw : s.Waits := ⟨ha, ht, hc, hp⟩
  clear ha ht hc hp
  generalize hn : s.hsBudget = n
  induction n generalizing s with
  | zero =>
    refine ⟨1, handshakeStep s, le_rfl, runSteps_one hw.step_eq, .inl ?_, ?_, ?_⟩
    all_goals rw [handshakeStep, if_pos hn]; rfl
  | succ n ih =>
    have hsame := handshakeStep_spares s
    have hout := handshakeStep_out s
    have hone := runSteps_one hw.step_eq
    obtain hverify | herase | ⟨hnext, hbudget⟩ := hw.poll
    · exact ⟨1, _, by omega, hone, .inl hverify, hsame.mem, hout⟩
    · exact ⟨1, _, by omega, hone, .inr herase, hsame.mem, hout⟩
    · obtain ⟨k, t, hk, hrun, hctl, hmem, hout'⟩ := ih _ hnext (by omega)
      exact ⟨k + 1, t, by omega, (runSteps_succ hw.step_eq).trans hrun, hctl, hmem.trans hsame.mem, hout'.trans hout⟩

/-! ### ERASE and the responses -/

/-- Settles O42: the ERASE state starts ERASE_RANGE with limit BTLD_OFFSET. -/
theorem eraseStateErases : Obligations.EraseStateErases := by
  intro s hcfg hs ha hc hp
  obtain ⟨-, -, hflash⟩ := fields_fit hcfg
  obtain ⟨-, -, -, h64, h128, -⟩ := id hcfg
  have hstep : step s = .next (startEraseState s) := by
    rw [step_fetch ha (by simp [hc]) hs.2]
    simp only [fetchTurn, hc, hp]
    rfl
  obtain ⟨m, hend, hread⟩ := eraseRange_finishes (s := startEraseState s) (limit := s.cfg.btldOffset)
    ⟨ha, show s.ctl ≠ _ by simp [hc]⟩ hs.1 rfl h64 h128 hflash
  refine ⟨_, m, hstep, ?_, hread⟩
  rw [← setTodo_self (s := { s with mem := m, sv := resetVector s.mem, rxEnable := false, rxq := [], pos := .reply }) hs.2]
  exact hend

theorem State.Reaches.of_eq (h : s = t) : s.Reaches t := h ▸ .refl s

/-- R41: the bytes of a list are sent in order. -/
theorem txs_reach (bs : List Byte) : ∀ {s : State}, s.Free → s.txFlight = none →
    (State.setTodo { s with out := s.out ++ bs.map .byte, unread := s.unread + bs.length } rest).Reaches u →
    (s.setTodo (bs.map .tx ++ rest)).Reaches u := by
  induction bs with
  | nil =>
    intro s _ _ hu
    rw [List.map_nil, List.append_nil] at hu
    exact hu
  | cons b bs ih =>
    intro s hf hi hu
    refine tx_reaches (s := s.setTodo _) hf rfl hi (ih (s := s.deliver b) hf hi ?_)
    rw [List.map_cons, List.append_cons, List.length_cons, Nat.add_comm bs.length, ← Nat.add_assoc] at hu
    exact hu

/-- Settles O43: after the four bytes the receiver goes on and RECEIVE is entered. -/
theorem handshakeResponse : Obligations.HandshakeResponse := by
  intro s ha hc hs
  obtain ⟨⟨-, -, -, hidle⟩, htodo⟩ := hs
  refine ⟨rfl, State.Reaches.finishes ?_ htodo⟩
  refine txs_reach (s := s) (rest := [.enterReceive]) hsRspBytes ⟨ha, hc⟩ hidle (.of_primitive ⟨ha, hc⟩ rfl rfl ?_)
  exact .of_eq (setTodo_self
    (s := enterReceive { s with out := s.out ++ hsRspBytes.map .byte, unread := s.unread + 4 }) htodo)

/-- R99: a response byte is sent, then comes what follows it. -/
theorem response_finishes (r : Response) (b : Byte) (hf : s.Free) (hs : s.Settled) :
    (s.setTodo [.tx b, .after r]).Finishes (afterResponse r (s.deliver b)) := by
  obtain ⟨⟨-, -, -, hidle⟩, htodo⟩ := hs
  refine State.Reaches.finishes (tx_reaches (s := s.setTodo _) hf rfl hidle ?_) (by cases r <;> exact htodo)
  refine .of_primitive (s := (s.deliver b).setTodo [.after r]) hf rfl rfl ?_
  have hsame : ((s.deliver b).setTodo [.after r]).setTodo [] = s.deliver b := setTodo_self (s := s.deliver b) htodo
  rw [hsame]
  exact .refl _

/-- Settles O45: the way back to the receive loop changes nothing but the index. -/
theorem acknowledgment : Obligations.Acknowledgment := fun s ha hc hs =>
  ⟨rfl, response_finishes (s := { s with frIdx := 0 }) .ack s.cfg.rspAck ⟨ha, hc⟩ hs⟩

/-- R238: the reset request goes out after the byte. -/
theorem resetDevice_deliver (b : Byte) (s : State) : resetDevice (s.deliver b) = { s with
    out := s.out ++ [.byte b, .resetRequest], unread := s.unread + 1, ctl := .doneReset, pos := .body } := by
  rw [List.append_cons]
  rfl

/-- R238: control goes to the application after the byte. -/
theorem transferControl_deliver (b : Byte) (s : State) : transferControl appEntry (s.deliver b) = { s with
    out := s.out ++ [.byte b, .jump 4], unread := s.unread + 1, ctl := .doneJump, pos := .body } := by
  rw [List.append_cons]
  rfl

/-- A response that the device's reset follows. -/
theorem resetResponse_finishes {r : Response} {b : Byte} (hr : ∀ s, afterResponse r s = resetDevice s) (hf : s.Free)
    (hs : s.Settled) : (s.setTodo [.tx b, .after r]).Finishes { s with
      out := s.out ++ [.byte b, .resetRequest], unread := s.unread + 1, ctl := .doneReset, pos := .body } := by
  rw [← resetDevice_deliver, ← hr]
  exact response_finishes r b hf hs

/-- Settles O46. -/
theorem errorReport : Obligations.ErrorReport := fun _ ha hc hs =>
  ⟨⟨rfl, resetResponse_finishes (fun _ => rfl) ⟨ha, hc⟩ hs⟩, rfl, resetResponse_finishes (fun _ => rfl) ⟨ha, hc⟩ hs⟩

/-- Settles O47: the valid verdict is followed by the transfer of control, the other by the reset. -/
theorem verdictResponse_holds : Obligations.VerdictResponse := by
  intro s ha hc hs
  refine ⟨⟨rfl, ?_⟩, rfl, resetResponse_finishes (fun _ => rfl) ⟨ha, hc⟩ hs⟩
  rw [← transferControl_deliver]
  exact response_finishes .sigValid s.cfg.rspSigValid ⟨ha, hc⟩ hs

/-- Settles O44: a Tx takes two primitives; a failure between them decides for the byte in flight by a draw. -/
theorem transmitDelivers : Obligations.TransmitDelivers := by
  intro s b rest ha hc ht
  have hstep : step s = .next (txStep b rest s) := step_task ha hc ht
  refine ⟨fun hi => ?_, fun hi => ?_, fun hi => ?_⟩
  · rw [hstep, txStep, hi]
    rfl
  · rw [hstep, txStep, hi]
    rfl
  · show s.out ++ arrived s = _ ∨ s.out ++ arrived s = _
    simp only [arrived, hi]
    by_cases hd : Config.drawBit s.draws = true
    · exact .inl (by rw [if_pos hd])
    · exact .inr (by rw [if_neg hd, List.append_nil])

/-- Settles O48. -/
theorem noStepAfterTransfer : Obligations.NoStepAfterTransfer := fun s hc => by
  rw [step_eq, takeTurn, if_pos hc]
  rfl

/-- Settles O49: the poll of the receive loop returns no byte. -/
theorem silentReceiveWaits : Obligations.SilentReceiveWaits := by
  intro s ha ht hc hp hidle
  obtain ⟨b, q, hrx, hq, -⟩ | ⟨-, hpoll⟩ := rxPoll_cases s
  · simp [hrx, hq] at hidle
  · rw [step_fetch ha (by simp [hc]) ht]
    simp only [fetchTurn, hc, hp, receiveTurn, hpoll, Turn.outcome]

end Sys2Proof.Machine
end

section
/-! Who moves next (R5, R12): the block's turn, the moves of the environment, the host's offers (R40, R300), and the reset
(R290 to R294). -/

namespace Sys2Proof.Machine

variable {s t u : State} {rest : List Task} {e : List Move}

/-! ### Turns -/

/-- R12: between two steps the block moves when the schedule gives it its turn or has run out. -/
theorem turn_of_run (hi : s.inStep = false) (he : s.env = [] ∧ e = [] ∨ s.env = .run :: e) : s.turn = some e := by
  rw [State.turn, hi]
  obtain ⟨henv, rfl⟩ | henv := he <;> rw [henv] <;> rfl

/-- R12: between two steps a move of the host comes first, unless a cycle or a Tx holds it back. -/
theorem turn_of_host {m : Move} (hi : s.inStep = false) (henv : s.env = m :: e) (hm : (∃ b, m = .offer b) ∨ m = .read) :
    s.turn = if s.held = true then some s.env else none := by
  rw [State.turn, hi, henv]
  obtain ⟨b, rfl⟩ | rfl := hm <;> rfl

theorem step_host {m : Move} (hc : s.ctl ≠ .doneJump) (hi : s.inStep = false) (hh : s.held = false)
    (henv : s.env = m :: e) (hm : (∃ b, m = .offer b) ∨ m = .read) :
    step s = .next (environmentMove m (s.setEnv e)) := by
  rw [step_of_turn_none hc (by rw [turn_of_host hi henv hm, hh]; rfl), environmentTurn, henv]

theorem held_false_iff : s.held = false ↔ s.nvmBusy = .idle ∧ s.txFlight = none := by
  simp [State.held]

theorem held_iff : s.held = true ↔ s.nvmBusy ≠ .idle ∨ s.txFlight ≠ none := by
  simp [State.held]

/-- R12, log 8: what belongs to the primitive before it. -/
theorem inStep_task {task : Task} (hp : s.powered = true) (ht : s.todo = task :: rest) :
    s.inStep = true ↔ (∃ st, task = .ret st) ∨ task = .after .ack ∨ task = .enterReceive := by
  rw [State.inStep, hp, ht]
  cases task <;> simp

/-- Settles O51: in the middle of a step the block moves, else whoever the schedule names. -/
theorem onePrimitivePerStep : Obligations.OnePrimitivePerStep := by
  intro s task rest hp hc ht
  have hown : s.turn = some s.env → step s = taskStep task rest s := fun hturn => by
    rw [step_of_turn hc hp hturn ht, setEnv_self rfl]
  refine ⟨inStep_task hp ht, fun hi => hown (turn_inStep hi), fun hi e => ⟨fun he => ?_, step_powerFail hc hi, fun hb hx => ?_,
    fun hheld henv => hown ?_⟩⟩
  · exact step_of_turn hc hp (turn_of_run hi he) ht
  · have hfree := held_false_iff.2 ⟨hb, hx⟩
    exact ⟨fun b henv => step_host hc hi hfree henv (.inl ⟨b, rfl⟩), fun henv => step_host hc hi hfree henv (.inr rfl)⟩
  · have hheld := held_iff.2 hheld
    obtain ⟨b, henv⟩ | henv := henv
    · rw [turn_of_host hi henv (.inl ⟨b, rfl⟩), if_pos hheld]
    · rw [turn_of_host hi henv (.inr rfl), if_pos hheld]

/-! ### The host's offers -/

theorem hostOffer_of_may (b : Byte) (hrx : s.rxEnable = true) (hm : hostMaySend s = true) :
    hostOffer b s = { s with rxq := s.rxq ++ [b] } := by
  rw [hostOffer, if_pos ⟨hrx, hm⟩, setRx_of_on hrx]

/-- R300: in RECEIVE the duties bind the host. -/
theorem hostMaySend_receive (hc : s.ctl = .receive) (hp : s.powered = true) :
    hostMaySend s = (!responseOwed s && s.unread = 0 && !framePending s.rxq s) := if_pos ⟨hc, hp⟩

/-- R300 duty 4: a response is owed from the END of a dispatched frame until its Tx is over. -/
theorem responseOwed_iff : responseOwed s = true ↔ s.pos ≠ .body ∧ ∀ r, s.todo ≠ [.after r] := by
  unfold responseOwed
  split
  · simp_all
  · simp_all

/-- Settles O53. -/
theorem hostOffers : Obligations.HostOffers := by
  intro s b e henv hc hi hh
  have hstep : step s = .next (hostOffer b (s.setEnv e)) := step_host hc hi hh henv (.inl ⟨b, rfl⟩)
  rw [hstep]
  refine ⟨fun hreceive hrx => ?_, fun hrx => ?_, fun hreceive hp hpos hread hq hrx => ?_, fun hreceive hp hduty => ?_⟩
  · rw [hostOffer_of_may (s := s.setEnv e) b hrx (if_neg fun h => hreceive h.1)]
    rfl
  · rw [hostOffer, if_neg (by simp [hrx])]
    rfl
  · have howed : responseOwed (s.setEnv e) = false := by
      rw [Bool.eq_false_iff, Ne, responseOwed_iff]
      rintro ⟨hbody, hafter⟩
      exact hpos.elim hbody fun ⟨r, hr⟩ => hafter r hr
    rw [hostOffer_of_may (s := s.setEnv e) b hrx]
    · rw [State.setEnv_rxq, hq]
      rfl
    · rw [hostMaySend_receive (s := s.setEnv e) hreceive hp, howed, State.setEnv_rxq, hq]
      simp [hread, framePending]
  · have hnot : hostMaySend (s.setEnv e) = false := by
      rw [hostMaySend_receive (s := s.setEnv e) hreceive hp]
      obtain hpos | hunread := hduty
      · rw [(responseOwed_iff (s := s.setEnv e)).2 hpos]
        rfl
      · simp [hunread.ne']
    rw [hostOffer, hnot, if_neg (by simp)]
    rfl

/-! ### Fetches -/

section
variable {b : Byte} {q : List Byte} {i : Instr}

theorem fetchTurn_byte (hc : s.ctl = .receive) (hpos : s.pos = .body) (hrx : s.rxEnable = true) (hq : s.rxq = b :: q) :
    fetchTurn s = .instr (wireInstr s b) { s with rxq := q } := by
  have hpoll : rxPoll s = (some b, s.setRx true q) := by rw [rxPoll, if_pos hrx, hq]
  rw [← setRx_of_on hrx]
  simp only [fetchTurn, hc, hpos, receiveTurn, hpoll]
  rfl

theorem fetchTurn_handshake (hc : s.ctl = .handshakeWait) (hpos : s.pos ≠ .entry) : fetchTurn s = .instr .hsReq s := by
  simp only [fetchTurn, hc, if_neg hpos]

theorem fetchTurn_dispatch (hc : s.ctl = .receive) (hpos : s.pos = .dispatch) :
    fetchTurn s = .instr (frameInstr s) s := by
  simp only [fetchTurn, hc, hpos]

theorem fetchTurn_respond {r : Response} (hc : s.ctl = .receive ∨ s.ctl = .verifyAndBoot) (hpos : s.pos = .respond r) :
    fetchTurn s = .instr (.rsp r) s := by
  obtain hc | hc := hc <;> simp only [fetchTurn, hc, hpos]

theorem fetchTurn_reply (hc : s.ctl = .erase) (hpos : s.pos = .reply) : fetchTurn s = .instr .hsRsp s := by
  simp only [fetchTurn, hc, hpos, if_true]

/-- R12: a command whose checks succeed follows the END at once, one that raises a status or resets takes a turn. -/
theorem inStep_dispatch (hp : s.powered = true) (ht : s.todo = []) (hc : s.ctl = .receive) (hpos : s.pos = .dispatch) :
    s.inStep = !endsSession (frameInstr s) s := by
  simp only [State.inStep, hp, ht, hc, hpos, Bool.true_and]

theorem endsSession_iff : endsSession i s = true ↔ i = .x [] ∨ commandStatus i s ≠ .success := by
  simp [endsSession]

/-- R231: with no sequence in progress the block's step is the instruction that its control state and position select. -/
theorem step_of_fetch (hc : s.ctl ≠ .doneJump) (hp : s.powered = true) (ht : s.todo = []) (hturn : s.turn = some e)
    (h : fetchTurn (s.setEnv e) = .instr i t) : step s = exec i t := by
  rw [step_eq, takeTurn_block hc hturn, blockTurn, if_pos (show (s.setEnv e).powered = true from hp)]
  simp only [State.setEnv_todo, ht, h]
  rfl

/-- A fetch in the middle of a step (R12). -/
theorem step_of_fetch_inStep (hc : s.ctl ≠ .doneJump) (hp : s.powered = true) (ht : s.todo = []) (hi : s.inStep = true)
    (h : fetchTurn s = .instr i s) : step s = exec i s :=
  step_of_fetch hc hp ht (turn_inStep hi) h

end

/-- Settles O54: what the fetch selects, by control state and position; whether the schedule is asked, by `inStep`. -/
theorem stepRunsDecodedInstruction : Obligations.StepRunsDecodedInstruction := by
  intro s hp ht
  refine ⟨fun e he => ⟨fun b q hc hpos hrx hq => ?_, fun hc hpos => ?_, fun i hc hpos hinstr hends => ?_⟩,
    fun i hc hpos hinstr hx hst => ?_, fun r hc hpos => ?_, fun hc hpos => ?_⟩
  · have hi : s.inStep = false := by simp [State.inStep, ht, hc, hpos]
    exact step_of_fetch (by simp [hc]) hp ht (turn_of_run hi he) (fetchTurn_byte (s := s.setEnv e) hc hpos hrx hq)
  · have hi : s.inStep = false := by simp [State.inStep, ht, hc]
    exact step_of_fetch (by simp [hc]) hp ht (turn_of_run hi he) (fetchTurn_handshake (s := s.setEnv e) hc hpos)
  · obtain rfl : i = frameInstr s := hinstr
    have hi : s.inStep = false := by rw [inStep_dispatch hp ht hc hpos, endsSession_iff.2 hends]; rfl
    exact step_of_fetch (by simp [hc]) hp ht (turn_of_run hi he) (fetchTurn_dispatch (s := s.setEnv e) hc hpos)
  · obtain rfl : i = frameInstr s := hinstr
    have hgoes : endsSession (frameInstr s) s = false :=
      Bool.eq_false_iff.2 fun h => (endsSession_iff.1 h).elim hx fun hne => hne hst
    have hi : s.inStep = true := by rw [inStep_dispatch hp ht hc hpos, hgoes]; rfl
    exact step_of_fetch_inStep (by simp [hc]) hp ht hi (fetchTurn_dispatch hc hpos)
  · have hi : s.inStep = true := by obtain hc | hc := hc <;> simp [State.inStep, ht, hc, hp, hpos]
    exact step_of_fetch_inStep (by obtain hc | hc := hc <;> simp [hc]) hp ht hi (fetchTurn_respond hc hpos)
  · have hi : s.inStep = true := by simp [State.inStep, ht, hc, hp]
    exact step_of_fetch_inStep (by simp [hc]) hp ht hi (fetchTurn_reply hc hpos)

/-! ### Reset -/

/-- R290: without power, or after ResetDevice, a step alone is the reset. -/
theorem step_reset (henv : s.env = []) (ht : s.todo = []) (h : s.ctl = .doneReset ∨ s.powered = false ∧ s.ctl ≠ .doneJump) :
    step s = resetBlock s := by
  have hc : s.ctl ≠ .doneJump := h.elim (fun hc => by simp [hc]) And.right
  have hi : s.inStep = false := by
    obtain hc | ⟨hp, -⟩ := h
    · simp [State.inStep, ht, hc]
    · simp [State.inStep, hp]
  rw [step_eq, takeTurn_block hc (turn_of_run hi (.inl ⟨henv, rfl⟩)), setEnv_self henv, blockTurn]
  by_cases hp : s.powered = true
  · have hreset : s.ctl = .doneReset := h.elim id fun hoff => by simp [hp] at hoff
    simp only [if_pos hp, ht, fetchTurn, hreset]
    rfl
  · rw [if_neg hp]
    rfl

/-- Settles O52: the reset boots the block with its volatile elements reset, or finds the vector changed. -/
theorem resetRestartsBlock : Obligations.ResetRestartsBlock := by
  intro s henv ht h
  rw [step_reset henv ht h, resetBlock]
  refine ⟨fun hvec => ⟨volatileReset s, if_pos (vectorIntact_iff.2 hvec), rfl, rfl, rfl, rfl, rfl, rfl, rfl, rfl, rfl, rfl,
    ⟨⟨rfl, rfl, rfl, rfl⟩, rfl⟩, ?_, fun b hb => ?_⟩, fun hvec => if_neg (mt vectorIntact_iff.1 hvec)⟩
  · exact (List.length_map _).trans List.length_range
  · obtain ⟨i, -, rfl⟩ := List.mem_map.1 hb
    exact ⟨_, rfl⟩

end Sys2Proof.Machine
end
